-- ==== Sys2Proof/Word.lean ====
section
/-! DEFINITION. Bytes, bus levels, and the plain data that crosses the block's ports in one tick
(spec: `00_scope.md` R11, `40_timer_busline.md` R88 to R90, `44_host_interface.md` R160). -/

namespace Sys2Proof

/-- A byte is an unsigned 8-bit value (R11). -/
abbrev Byte := BitVec 8

/-- A bus level: `Active` is dominant, `Passive` recessive (R11, R90). -/
inductive Level where
  | passive
  | active
  deriving DecidableEq, Repr, Inhabited

/-- `not L` of R11. -/
def Level.not : Level → Level
  | .passive => .active
  | .active => .passive

/-- The numeric value of a level (R11): `Active` is 1, `Passive` is 0. -/
def Level.num : Level → BitVec 1
  | .passive => 0
  | .active => 1

/-- One host access (R160): a read or a write at a 5-bit address (R48). -/
inductive Access where
  | rd (addr : BitVec 5)
  | wr (addr : BitVec 5) (v : Byte)
  deriving DecidableEq, Repr, Inhabited

/-- What the outside does to the block in one tick: the reset line (R195), the sampled level `in`
(R88), what the other nodes drive (R90) and the host's access, at most one (R160). The block uses
`sample` alone; `others` is there so that a claim can state the premise `BusReadback`. -/
structure TickIn where
  rst : Bool
  sample : Level
  others : Level
  access : Option Access
  deriving DecidableEq, Repr, Inhabited

end Sys2Proof
end

