-- ==== Sys2Proof/Config.lean ====
section
/-! DEFINITION. What an instance of the block fixes (spec: `00_scope.md` R6 to R10) and the free
values of the model: constants without a body, so that nothing can be proved of their values. -/

namespace Sys2Proof

/-- `MAX_FRAME` of R6: the largest number of bytes in a frame. -/
abbrev maxFrame : Nat := 12

/-- The timing parameters of R7 and `W_TIMER` of R8, each a natural number. The spec gives a value to
none of them, so they are the argument of the model (R37). `tNoData` stands for `US(100)` (R8). -/
structure Params where
  rxSofMin : Nat
  rxSofMax : Nat
  rxShortMin : Nat
  rxShortMax : Nat
  rxLongMin : Nat
  rxLongMax : Nat
  rxEodMin : Nat
  rxIfsMin : Nat
  txSof : Nat
  txShort : Nat
  txLong : Nat
  txEof : Nat
  tNoData : Nat
  wTimer : Nat
  deriving DecidableEq, Repr, Inhabited

namespace Params

/-- The range premise of WF1 for one window constant. -/
abbrev fits (P : Params) (x : Nat) : Prop := 1 ≤ x ∧ x < 2 ^ P.wTimer - 1

/-- WF1 of R9: every window constant is at least 1 and fits the timer. -/
abbrev WF1 (P : Params) : Prop :=
  P.fits P.rxSofMin ∧ P.fits P.rxSofMax ∧ P.fits P.rxShortMin ∧ P.fits P.rxShortMax ∧
  P.fits P.rxLongMin ∧ P.fits P.rxLongMax ∧ P.fits P.rxEodMin ∧ P.fits P.rxIfsMin ∧
  P.fits P.txSof ∧ P.fits P.txShort ∧ P.fits P.txLong ∧ P.fits P.txEof ∧ P.fits P.tNoData

/-- WF2 of R9: a transmitted short pulse is received as short. -/
abbrev WF2 (P : Params) : Prop := P.rxShortMin ≤ P.txShort ∧ P.txShort < P.rxShortMax

/-- WF3 of R9: a transmitted long pulse is received as long. -/
abbrev WF3 (P : Params) : Prop := P.rxLongMin < P.txLong ∧ P.txLong < P.rxLongMax

/-- WF4 of R9: the short and the long window do not overlap. -/
abbrev WF4 (P : Params) : Prop := P.rxShortMax ≤ P.rxLongMin + 1

/-- WF5 of R9: a long data pulse is never taken for end of data. -/
abbrev WF5 (P : Params) : Prop := P.txLong ≤ P.rxEodMin ∧ P.rxLongMax ≤ P.rxEodMin + 1

/-- WF6 of R9: a transmitted SOF is accepted. -/
abbrev WF6 (P : Params) : Prop := P.rxSofMin ≤ P.txSof ∧ P.txSof ≤ P.rxSofMax

/-- WF7 of R9: the transmitter's EOF is seen as end of data. -/
abbrev WF7 (P : Params) : Prop := P.rxEodMin < P.txEof

/-- WF8 of R9: a transmitter waiting for idle does not start inside another node's EOF. -/
abbrev WF8 (P : Params) : Prop := P.txEof ≤ P.rxIfsMin

/-- WF9 of R9: no window is empty by construction. -/
abbrev WF9 (P : Params) : Prop :=
  P.rxShortMin ≤ P.rxShortMax ∧ P.rxLongMin < P.rxLongMax ∧ P.rxSofMin ≤ P.rxSofMax

/-- `WF(params)` of R9. No rule of the block needs it; claims take it, or a part of it, as a
premise. -/
abbrev WF (P : Params) : Prop :=
  P.WF1 ∧ P.WF2 ∧ P.WF3 ∧ P.WF4 ∧ P.WF5 ∧ P.WF6 ∧ P.WF7 ∧ P.WF8 ∧ P.WF9

/-- TSET-1 of R10: the numbers of the test vectors, the spec's own choice. Used by tests and by
`State.withFetchWord` only; no claim rests on it (R10). -/
def tset1 : Params where
  tNoData := 100
  rxShortMin := 34
  rxShortMax := 96
  rxLongMin := 96
  rxLongMax := 163
  rxSofMin := 163
  rxSofMax := 239
  rxEodMin := 163
  rxIfsMin := 280
  txShort := 64
  txLong := 128
  txSof := 200
  txEof := 280
  wTimer := 16

end Params

/-- Free value: the parameter set of the block at reset (log 3; R7, R8: OPEN). -/
opaque Config.params : Params

/-- Free value: byte `i` of the frame buffer after reset number `epoch`, until something writes it
(log 5; `93_implementation_defined.md` U4: any value). DESIGN CHOICE (log 22): two block states with
the same `epoch` draw the same bytes. -/
opaque Config.unwritten (epoch i : Nat) : Byte

/-- Free value: the byte a read returns where the spec says it is unspecified (log 8; R45, R164,
U15). DESIGN CHOICE (log 22): two block states with the same `fresh` draw the same byte. -/
opaque Config.unspecifiedRead (fresh : Nat) : Byte

/-- Free value: what the outside does in a tick for which `State.inputs` lists nothing (log 1; R90,
R160: free inputs). DESIGN CHOICE (log 22): two block states with the same `fresh` draw the same
tick. -/
opaque Config.environment (fresh : Nat) : TickIn

end Sys2Proof
end

