-- ==== Sys2Proof/Syntax.lean ====
section
/-! DEFINITION. The instructions: one constructor per row of `spec/opcode_table.json` (spec:
`30_encoding.md` R55, R61, R66 to R68). -/

namespace Sys2Proof

/-- The three code spaces of R55: the `CMD` byte, the wire symbol class and the `RESULT` byte. -/
inductive Space where
  | cmd
  | sym
  | res
  deriving DecidableEq, Repr

/-- One constructor per row of the table, in its order. -/
inductive Instr where
  /-- RECV: receive one frame (R95). -/
  | recv
  /-- XMIT: transmit one frame (R120). -/
  | xmit
  /-- CRC: the checksum of the first `LEN` bytes (R150). -/
  | crc
  /-- CMD.RESERVED: any other command byte (R67). -/
  | cmdReserved (v : Byte)
  /-- WAIT.TIMEOUT: no activity within the no-data window (R97). -/
  | waitTimeout
  /-- WAIT.ACTIVITY: an active sample while waiting (R97). -/
  | waitActivity
  /-- SOF.TOOSHORT (R98). -/
  | sofTooshort
  /-- SOF.OK (R98). -/
  | sofOk
  /-- SOF.TOOLONG (R98). -/
  | sofToolong
  /-- P.TOOSHORT: passive data pulse below every window (R100). -/
  | pTooshort
  /-- P.SHORT: bit 1 (R101). -/
  | pShort
  /-- P.MID: in neither window, bit 0 (R105). -/
  | pMid
  /-- P.LONG: bit 0 (R101). -/
  | pLong
  /-- P.OVER: in neither window, bit 0 (R105). -/
  | pOver
  /-- P.HOLD: end of data (R99). -/
  | pHold
  /-- A.TOOSHORT: active data pulse below every window (R100). -/
  | aTooshort
  /-- A.SHORT: bit 0 (R101). -/
  | aShort
  /-- A.MID: in neither window, bit 0 (R105). -/
  | aMid
  /-- A.LONG: bit 1 (R101). -/
  | aLong
  /-- A.OVER: in neither window, bit 0 (R105). -/
  | aOver
  /-- A.HOLD: end of data on an active run (R99, R106). -/
  | aHold
  /-- RES.OK_OR_BYTES: success, `n` whole bytes after `RECV`, 0 for `Ok` after `XMIT` (R68). -/
  | resOkOrBytes (n : BitVec 7)
  /-- RES.NODATA (R68). -/
  | resNodata
  /-- RES.BUSERROR (R68). -/
  | resBuserror
  /-- RES.DATAERROR (R68). -/
  | resDataerror
  deriving DecidableEq, Repr

/-- The code space an instruction's row stands in (R55). -/
def Instr.space : Instr → Space
  | .recv | .xmit | .crc | .cmdReserved _ => .cmd
  | .waitTimeout | .waitActivity | .sofTooshort | .sofOk | .sofToolong => .sym
  | .pTooshort | .pShort | .pMid | .pLong | .pOver | .pHold => .sym
  | .aTooshort | .aShort | .aMid | .aLong | .aOver | .aHold => .sym
  | .resOkOrBytes _ | .resNodata | .resBuserror | .resDataerror => .res

end Sys2Proof
end

