-- ==== Sys2Proof/Machine/State.lean ====
section
/-! DEFINITION. The state of one block instance, its reset value, and the reasons a step can stop
(spec: `10_state.md` R20 to R38, `00_scope.md` R13). -/

namespace Sys2Proof.Machine

/-- `PHASE` of R21: which of the source's algorithm steps the sequencer is executing. -/
inductive Phase where
  | idle
  | rxWait
  | rxSof
  | rxBit
  | txIdle
  | txSof
  | txBit
  | txEof
  deriving DecidableEq, Repr

/-- The 3-bit code of a phase (R21), not host-visible. -/
def Phase.code : Phase → BitVec 3
  | .idle => 0
  | .rxWait => 1
  | .rxSof => 2
  | .rxBit => 3
  | .txIdle => 4
  | .txSof => 5
  | .txBit => 6
  | .txEof => 7

/-- The phases of a `RECV` (R21). -/
def Phase.isRx : Phase → Bool
  | .rxWait | .rxSof | .rxBit => true
  | .idle | .txIdle | .txSof | .txBit | .txEof => false

/-- The phases of an `XMIT` (R21). -/
def Phase.isTx : Phase → Bool
  | .txIdle | .txSof | .txBit | .txEof => true
  | .idle | .rxWait | .rxSof | .rxBit => false

/-- The three error kinds of `60_exceptions.md` R175. -/
inductive ErrorKind where
  | noData
  | busError
  | dataError
  deriving DecidableEq, Repr

/-- The result type of R13. -/
inductive Result where
  /-- XMIT succeeded. -/
  | ok
  /-- RECV succeeded with `n` whole bytes, `0 ≤ n ≤ 12`. -/
  | bytes (n : Nat)
  | error (k : ErrorKind)
  deriving DecidableEq, Repr

/-- The frame buffer as the list of its written bytes: (index, byte) pairs, indices strictly rising.
An index that is not listed has no byte of its own (log 5). -/
abbrev Memory := List Host.Cell

/-- One block instance, its parameters and its coming inputs. The first fifteen fields are the whole
state of R20; the last seven are the model's own (INVENTORY.md, State). -/
structure State where
  /-- `PHASE` (R21). -/
  phase : Phase
  /-- `TCNT` (R22), a count below `2^W_TIMER`. -/
  tcnt : Nat
  /-- `TRUN` (R23). -/
  trun : Bool
  /-- `DRV` (R24), the output port `drv_out` (R89). -/
  drv : Level
  /-- `REF` (R25). -/
  ref : Level
  /-- `SHREG` (R26). -/
  shreg : Byte
  /-- `NBITS` (R27). -/
  nbits : BitVec 3
  /-- `NBYTES` (R28). -/
  nbytes : BitVec 4
  /-- `DUR` (R29). -/
  dur : Nat
  /-- `FB[0..11]` (R30). -/
  fb : Memory
  /-- `LEN` (R31). -/
  len : Byte
  /-- `RESULT` (R32). -/
  result : Byte
  /-- `CRCOUT` (R33). -/
  crcout : Byte
  /-- `TMOMULT` (R34). -/
  tmomult : Byte
  /-- Model's own: the tagged value `RESULT` encodes (`30_encoding.md` R68), none before an
  operation has completed. -/
  resultTag : Option Result
  /-- Model's own: the parameters of the instance, the same for every step (R37). -/
  params : Params
  /-- Model's own: the byte the read of the last step returned (`44_host_interface.md` R161). -/
  rdata : Option Byte
  /-- Model's own: what the outside does in the coming ticks, the next one first. -/
  inputs : List TickIn
  /-- Model's own: the number of the coming tick (`40_timer_busline.md` R80). -/
  tick : Nat
  /-- Model's own: the counter free values are drawn with. -/
  fresh : Nat
  /-- Model's own: how many reset steps there have been. -/
  epoch : Nat
  deriving DecidableEq, Repr

/-- Why the model stops. -/
inductive Fault where
  /-- A frame-buffer index above 11, which `20_memory.md` R41 says the sequencer never forms. Raised
  by the byte store of the receiver and the byte fetch of the transmitter in states no run reaches;
  safe. -/
  | bufferIndex (i : Nat)
  deriving DecidableEq, Repr

/-- Why the model gives no meaning. -/
inductive Refusal where
  /-- An instruction without a meaning; raised by no arm of `exec`. Safe. -/
  | notModelled (mnemonic : String)
  /-- A symbol code that is no row of the table. Raised by the receiver's step, which never forms
  such a code (`symbolCode_decodes`); safe. -/
  | undefinedSymbol (w : BitVec 6)
  deriving DecidableEq, Repr

/-- What a meaning or a step answers. -/
abbrev Outcome := Host.Outcome State Fault Refusal

/-- The machine right after reset (R38). `FB` is unspecified: nothing is listed and every byte reads
as a free value. The model's own fields have the values of logs 1, 3 and 6. -/
def State.reset : State where
  phase := .idle
  tcnt := 0
  trun := false
  drv := .passive
  ref := .passive
  shreg := 0x00
  nbits := 0
  nbytes := 0
  dur := 0
  fb := []
  len := 0x00
  result := 0x00
  crcout := 0x00
  tmomult := 25
  resultTag := none
  params := Config.params
  rdata := none
  inputs := []
  tick := 0
  fresh := 0
  epoch := 0

end Sys2Proof.Machine
end

