-- ==== Sys2Proof/Machine/Ops.lean ====
section
/-! DEFINITION. The shared operations: the frame buffer (spec: `20_memory.md` R40 to R46), the Clock/Timer
and Bus Line primitives (`40_timer_busline.md` R82 to R90), the result code (`30_encoding.md` R68) and
the completion sequence `finish`, the block's way of taking an exception (`60_exceptions.md` R180).
There is no return beside it: after any completion the next command is simply accepted (R184). -/

namespace Sys2Proof.Machine

/-- Every index is below that of the entry after it. -/
def Memory.rising : Memory → Bool
  | [] => true
  | [_] => true
  | (a, _) :: (b, w) :: rest => decide (a < b) && Memory.rising ((b, w) :: rest)

/-- The canonical form: indices strictly rising and all below 12. An unlisted index has no byte, so
no entry equals what an unlisted index reads as. -/
def Memory.wf (m : Memory) : Bool := m.rising && m.all fun c => decide (c.1 < maxFrame)

/-- The byte listed at an index. -/
def Memory.get (m : Memory) (i : Nat) : Option Byte :=
  match m with
  | [] => none
  | (a, v) :: rest => if a = i then some v else Memory.get rest i

/-- The memory with a byte stored at an index, in canonical form. -/
def Memory.set (m : Memory) (i : Nat) (v : Byte) : Memory :=
  match m with
  | [] => [(i, v)]
  | (a, w) :: rest =>
    if i < a then (i, v) :: (a, w) :: rest
    else if i = a then (i, v) :: rest
    else (a, w) :: Memory.set rest i v

namespace State

/-- `FB[i]` for an index in range: what was last written there, else the free byte of U4. DESIGN CHOICE:
the free byte is a function of `epoch` and `i`, so two block states with equal `epoch` hold equal
unwritten bytes, which U4 and R188 do not say (log 22). -/
def fbByte (s : State) (i : Nat) : Byte := (s.fb.get i).getD (Config.unwritten s.epoch i)

/-- The byte fetch `FB[i]` (R12): there is no byte above index 11 (R41). -/
def fbRead (s : State) (i : Nat) : Option Byte := if i < maxFrame then some (s.fbByte i) else none

/-- The byte store `FB[i] <- v` (R12), one whole byte (R46). -/
def fbWrite (s : State) (i : Nat) (v : Byte) : Option State :=
  if i < maxFrame then some { s with fb := s.fb.set i v } else none

/-- `[FB[0], .., FB[n-1]]`. -/
def fbBytes (s : State) (n : Nat) : List Byte := (List.range n).map s.fbByte

/-- `T.start` (R82). -/
def timerStart (s : State) : State := { s with tcnt := 0, trun := true }

/-- `T.stop` (R83): the count is retained. -/
def timerStop (s : State) : State := { s with trun := false }

/-- The value `now` of a busy step (R81, R84): the count after the increment, wrapping at the width
of the timer (R85). -/
def nextTicks (s : State) : Nat := (s.tcnt + 1) % 2 ^ s.params.wTimer

/-- `L.drive_active` (R86). -/
def driveActive (s : State) : State := { s with drv := .active }

/-- `L.drive_passive` (R87). -/
def drivePassive (s : State) : State := { s with drv := .passive }

/-- The output port during the coming tick (R89): `DRV` before the step. -/
def drvOut (s : State) : Level := s.drv

/-- What the outside does in the coming tick: the next listed input, or a free value (log 1). -/
def input (s : State) : TickIn := s.inputs.headD (Config.environment s.fresh)

/-- The wire in the coming tick (R90): an active drive of any node wins. -/
def busLevel (s : State) : Level :=
  if s.drvOut = .active ∨ s.input.others = .active then .active else .passive

end State

/-- The 7-bit code of an error kind (R68). -/
def ErrorKind.code : ErrorKind → BitVec 7
  | .noData => 1
  | .busError => 2
  | .dataError => 3

/-- `enc(r)` of R68: bit 7 the error flag, bits 6:0 the payload. -/
def enc : Result → Byte
  | .ok => 0x00
  | .bytes n => 0#1 ++ BitVec.ofNat 7 n
  | .error k => 1#1 ++ k.code

/-- A result of R13: at most 12 bytes. -/
def Result.wf : Result → Bool
  | .ok => true
  | .bytes n => decide (n ≤ maxFrame)
  | .error _ => true

/-- `RESULT <- enc(r)`, with the tagged value beside it (R68). -/
def State.setResult (r : Result) (s : State) : State :=
  { s with result := enc r, resultTag := some r }

/-- `finish(r)` of R180: the result is written, the line released, the timer stopped, the phase idle;
nothing else, `TCNT` included, is touched. -/
def finish (r : Result) (s : State) : State :=
  { (s.setResult r).drivePassive.timerStop with phase := .idle }

/-- The start of every step, before any rule: the coming input is used up, the tick number and the
free-value counter go on, and no read has been answered yet. -/
def State.advance (s : State) : State :=
  { s with inputs := s.inputs.tail, tick := s.tick + 1, fresh := s.fresh + 1, rdata := none }

/-- The answer to a read under `rst`: an unspecified byte (U15); a write is lost (R195). -/
def State.accessUnderReset (a : Option Access) (s : State) : State :=
  match a with
  | some (.rd _) => { s with rdata := some (Config.unspecifiedRead s.fresh) }
  | some (.wr _ _) => s
  | none => s

/-- The reset step of R196: every piece of state at its reset value of R38, the buffer unspecified
anew; ticks are numbered from the first tick after it (R195). -/
def State.resetStep (s : State) : State :=
  { State.reset with
    params := s.params, rdata := s.rdata, inputs := s.inputs, fresh := s.fresh,
    epoch := s.epoch + 1 }

end Sys2Proof.Machine
end

