-- ==== Sys2Proof/Machine/Operands.lean ====
section
/-! DEFINITION. Operand forms: host addresses (spec: `20_memory.md` R48), the pulse and bit functions
(`30_encoding.md` R58, R59), slot polarity (R65), the bit shifts of R71 and the class of a completed
data pulse (R61). `bitval` and `txdur` are the one replaceable table of
`93_implementation_defined.md` G2. -/

namespace Sys2Proof.Machine

/-- What a host address names (R48). -/
inductive HostReg where
  | fb (i : Nat)
  | len
  | cmd
  | status
  | result
  | crcout
  | tmomult
  | reserved
  deriving DecidableEq, Repr

/-- The address map of R48. -/
def hostReg (a : BitVec 5) : HostReg :=
  if a.toNat < maxFrame then .fb a.toNat
  else if a = 0x10 then .len
  else if a = 0x11 then .cmd
  else if a = 0x12 then .status
  else if a = 0x13 then .result
  else if a = 0x14 then .crcout
  else if a = 0x15 then .tmomult
  else .reserved

/-- The address of `CMD` (R48). -/
abbrev cmdAddr : BitVec 5 := 0x11

/-- The address of `STATUS` (R48). -/
abbrev statusAddr : BitVec 5 := 0x12

/-- `short(d)` of R58: closed below, open above. -/
abbrev isShort (P : Params) (d : Nat) : Prop := P.rxShortMin ≤ d ∧ d < P.rxShortMax

/-- `long(d)` of R58: open at both ends. -/
abbrev isLong (P : Params) (d : Nat) : Prop := P.rxLongMin < d ∧ d < P.rxLongMax

/-- `bitval(L, d)` of R58: 1 for a short passive or a long active pulse, else 0. -/
def bitval (P : Params) (lv : Level) (d : Nat) : Bool :=
  match lv with
  | .passive => decide (isShort P d)
  | .active => decide (isLong P d)

/-- `txdur(L, b)` of R59. -/
def txdur (P : Params) (lv : Level) (b : Bool) : Nat :=
  match lv, b with
  | .passive, false => P.txLong
  | .passive, true => P.txShort
  | .active, false => P.txShort
  | .active, true => P.txLong

/-- The level of the slot that carries bit `p` (R65): passive when `p` is odd. -/
def slotLevel (p : Nat) : Level := if p % 2 = 1 then .passive else .active

/-- `(v << 1)[7:0] | b` of R71: a bit enters at bit 0. -/
def shiftIn (v : Byte) (b : Bool) : Byte := (v <<< 1) ||| (BitVec.ofBool b).zeroExtend 8

/-- `(v << 1)[7:0]` of R71. -/
def shiftOut (v : Byte) : Byte := v <<< 1

/-- The width field `W` of a completed data pulse (R61). Where windows overlap the class is the one
whose bit `bitval` gives (log 10): short before long for a passive pulse, long before short for an
active one. A pulse in neither window is MID up to `RX_LONG_MIN` and OVER above it. -/
def pulseWidth (P : Params) (lv : Level) (d : Nat) : BitVec 3 :=
  if d < P.rxShortMin then 0
  else match lv with
    | .passive =>
      if isShort P d then 1 else if isLong P d then 3 else if d ≤ P.rxLongMin then 2 else 4
    | .active =>
      if isLong P d then 3 else if isShort P d then 1 else if d ≤ P.rxLongMin then 2 else 4

end Sys2Proof.Machine
end

