-- ==== Sys2Proof/Machine/Flags.lean ====
section
/-! DEFINITION. The flags of the block: it has no flag register; `STATUS` is a view of `PHASE` (spec:
`10_state.md` R35) and the error flag is bit 7 of `RESULT` (`30_encoding.md` R68). The unspecified
reads and the host's view of every register stand here too (`44_host_interface.md` R161, R164). -/

namespace Sys2Proof.Machine

namespace State

/-- `BUSY` (R35). -/
def busy (s : State) : Bool := decide (s.phase ≠ .idle)

/-- `STATUS` (R35): bit 0 is `BUSY`, bits 7:1 read as 0. -/
def status (s : State) : Byte := (BitVec.ofBool s.busy).zeroExtend 8

/-- The error flag `RESULT[7]` (R68). -/
def errorFlag (s : State) : Bool := s.result.msb

/-- What `RD(addr)` returns while idle (R161); a reserved address gives an unspecified byte (R45). -/
def readReg (s : State) (a : BitVec 5) : Byte :=
  match hostReg a with
  | .fb i => s.fbByte i
  | .len => s.len
  | .cmd => 0x00
  | .status => s.status
  | .result => s.result
  | .crcout => s.crcout
  | .tmomult => s.tmomult
  | .reserved => Config.unspecifiedRead s.fresh

/-- A host access while busy (R164): a read of `STATUS` gives the view of the state before the step,
every other read an unspecified byte, and every write is ignored. -/
def accessWhileBusy (a : Option Access) (s : State) : State :=
  match a with
  | none => s
  | some (.wr _ _) => s
  | some (.rd addr) =>
    if hostReg addr = .status then { s with rdata := some s.status }
    else { s with rdata := some (Config.unspecifiedRead s.fresh) }

end State

end Sys2Proof.Machine
end

