-- ==== Sys2Proof/Machine/Checksum.lean ====
section
/-! DEFINITION. The Frame Checksum and the `CRC` command (spec: `43_checksum.md` R145 to R154). -/

namespace Sys2Proof.Machine

/-- `crc_bit(c, b)` of R146: one register update for one incoming bit. -/
def crcBit (c : Byte) (b : Bool) : Byte :=
  if b then ((c <<< 1) ||| 0x01) ^^^ (if c.msb then 0x01 else 0x1C)
  else (c <<< 1) ^^^ (if c.msb then 0x1D else 0x00)

/-- The bits of a byte, most significant first (R43, R147). -/
def bitsMsbFirst (x : Byte) : List Bool := [7, 6, 5, 4, 3, 2, 1, 0].map x.getLsbD

/-- `crc_byte(c, x)` of R147. -/
def crcByte (c x : Byte) : Byte := (bitsMsbFirst x).foldl crcBit c

/-- `checksum(bs)` of R145: preset 0xFF, all bytes in list order, final complement (R148). The local
register is `CREG` (R36). -/
def checksum (bs : List Byte) : Byte := ~~~(bs.foldl crcByte 0xFF)

/-- `CRC` (R150), complete in the accepting step. With `LEN > 12` the command is reserved and ignored
(log 7); while busy a command is ignored (R165). -/
def execCrc (s : State) : Outcome :=
  if s.phase = .idle ∧ s.len.toNat ≤ 12 then
    .next { s with crcout := checksum (s.fbBytes s.len.toNat) }
  else .next s

end Sys2Proof.Machine
end

