-- ==== Sys2Proof/Machine/Completion.lean ====
section
/-! DEFINITION. The reserved commands and the result codes: a result code is the completion of the
operation in progress with that result (spec: `30_encoding.md` R67 to R69, `60_exceptions.md` R175 to
R180; log 13). -/

namespace Sys2Proof.Machine

/-- CMD.RESERVED (R67): the write is ignored, no state changes (log 7). -/
def execCmdReserved (_v : Byte) (s : State) : Outcome := .next s

/-- The success result a code stands for: 0 is `Ok` at the end of an `XMIT`, `n` is `Bytes(n)` at the
end of a `RECV` (R68). -/
def successResult (n : BitVec 7) (p : Phase) : Result :=
  if n = 0 ∧ p.isTx then .ok else .bytes n.toNat

/-- RES.OK_OR_BYTES (R68, R180). -/
def execResOkOrBytes (n : BitVec 7) (s : State) : Outcome :=
  .next (finish (successResult n s.phase) s)

/-- RES.NODATA (R176, R180). -/
def execResNodata (s : State) : Outcome := .next (finish (.error .noData) s)

/-- RES.BUSERROR (R177, R180). -/
def execResBuserror (s : State) : Outcome := .next (finish (.error .busError) s)

/-- RES.DATAERROR (R178): raised in the accepting step, no other state changes. -/
def execResDataerror (s : State) : Outcome := .next (s.setResult (.error .dataError))

end Sys2Proof.Machine
end

