-- ==== Sys2Proof/WellFormed.lean ====
section
/-! DEFINITION. Which instruction terms the encodings admit (spec: `30_encoding.md` R67, R69). -/

namespace Sys2Proof

/-- A reserved command is none of the three commands (R67); a success code carries at most 12 bytes
(R68, R69: 0x0D to 0x7F are never produced). Every other row has no field. -/
def Instr.wf : Instr → Bool
  | .cmdReserved v => v != 0x01 && v != 0x02 && v != 0x03
  | .resOkOrBytes n => decide (n.toNat ≤ 12)
  | .recv | .xmit | .crc => true
  | .waitTimeout | .waitActivity | .sofTooshort | .sofOk | .sofToolong => true
  | .pTooshort | .pShort | .pMid | .pLong | .pOver | .pHold => true
  | .aTooshort | .aShort | .aMid | .aLong | .aOver | .aHold => true
  | .resNodata | .resBuserror | .resDataerror => true

end Sys2Proof
end

