-- ==== Sys2Proof/Decode.lean ====
section
/-! DEFINITION. The three decoders, the encoder written from the same tables, and the host access
triple (spec: `30_encoding.md` R61, R66 to R69; `95_test_vectors.md` section 3). -/

namespace Sys2Proof

/-- Why a code is rejected, by name. -/
inductive DecodeError where
  /-- A 6-bit symbol code that no class of R61 has. -/
  | reservedSymbol (w : BitVec 6)
  /-- A result byte that is never produced (R69). -/
  | reservedResult (w : Byte)
  /-- A byte whose two high bits are set cannot be a 6-bit symbol code. -/
  | wideSymbol (w : Byte)
  /-- No byte at all. -/
  | noByte
  deriving DecidableEq, Repr

/-- The command a `CMD` byte selects, by exact match of all eight bits (R66); every other byte is
reserved (R67). -/
def decodeCmd (v : Byte) : Instr :=
  if v = 0x01 then .recv
  else if v = 0x02 then .xmit
  else if v = 0x03 then .crc
  else .cmdReserved v

/-- The symbol code `SYM = CTX || LV || W` of R61. -/
def symCode (ctx : BitVec 2) (lv : Level) (w : BitVec 3) : BitVec 6 := ctx ++ lv.num ++ w

/-- The class of a symbol code, row by row of R61; a code no row has is rejected. -/
def decodeSym (w : BitVec 6) : Except DecodeError Instr :=
  if w = symCode 0 .passive 5 then .ok .waitTimeout
  else if w = symCode 0 .passive 1 then .ok .waitActivity
  else if w = symCode 1 .active 0 then .ok .sofTooshort
  else if w = symCode 1 .active 1 then .ok .sofOk
  else if w = symCode 1 .active 5 then .ok .sofToolong
  else if w = symCode 2 .passive 0 then .ok .pTooshort
  else if w = symCode 2 .passive 1 then .ok .pShort
  else if w = symCode 2 .passive 2 then .ok .pMid
  else if w = symCode 2 .passive 3 then .ok .pLong
  else if w = symCode 2 .passive 4 then .ok .pOver
  else if w = symCode 2 .passive 5 then .ok .pHold
  else if w = symCode 2 .active 0 then .ok .aTooshort
  else if w = symCode 2 .active 1 then .ok .aShort
  else if w = symCode 2 .active 2 then .ok .aMid
  else if w = symCode 2 .active 3 then .ok .aLong
  else if w = symCode 2 .active 4 then .ok .aOver
  else if w = symCode 2 .active 5 then .ok .aHold
  else .error (.reservedSymbol w)

/-- The result a `RESULT` byte stands for: bit 7 the error flag, bits 6:0 the payload (R68); the
values of R69 are rejected. -/
def decodeRes (w : Byte) : Except DecodeError Instr :=
  if w.msb then
    if w = 0x81 then .ok .resNodata
    else if w = 0x82 then .ok .resBuserror
    else if w = 0x83 then .ok .resDataerror
    else .error (.reservedResult w)
  else if w.toNat ≤ 12 then .ok (.resOkOrBytes (w.extractLsb' 0 7))
  else .error (.reservedResult w)

/-- Decoding one byte of a given code space; total. -/
def decode (sp : Space) (w : Byte) : Except DecodeError Instr :=
  match sp with
  | .cmd => .ok (decodeCmd w)
  | .sym => if w.extractLsb' 6 2 = 0 then decodeSym (w.extractLsb' 0 6) else .error (.wideSymbol w)
  | .res => decodeRes w

/-- Decoding a list of bytes: the instruction and the bytes that follow it. Every code is one byte
(R66, R68; a symbol code is six bits of one). -/
def decodeBytes (sp : Space) : List Byte → Except DecodeError (Instr × List Byte)
  | [] => .error .noByte
  | w :: rest =>
    match decode sp w with
    | .ok i => .ok (i, rest)
    | .error e => .error e

/-- The code of an instruction in its space, in the low bits of a byte. -/
def encodeWord : Instr → Byte
  | .recv => 0x01
  | .xmit => 0x02
  | .crc => 0x03
  | .cmdReserved v => v
  | .waitTimeout => (symCode 0 .passive 5).zeroExtend 8
  | .waitActivity => (symCode 0 .passive 1).zeroExtend 8
  | .sofTooshort => (symCode 1 .active 0).zeroExtend 8
  | .sofOk => (symCode 1 .active 1).zeroExtend 8
  | .sofToolong => (symCode 1 .active 5).zeroExtend 8
  | .pTooshort => (symCode 2 .passive 0).zeroExtend 8
  | .pShort => (symCode 2 .passive 1).zeroExtend 8
  | .pMid => (symCode 2 .passive 2).zeroExtend 8
  | .pLong => (symCode 2 .passive 3).zeroExtend 8
  | .pOver => (symCode 2 .passive 4).zeroExtend 8
  | .pHold => (symCode 2 .passive 5).zeroExtend 8
  | .aTooshort => (symCode 2 .active 0).zeroExtend 8
  | .aShort => (symCode 2 .active 1).zeroExtend 8
  | .aMid => (symCode 2 .active 2).zeroExtend 8
  | .aLong => (symCode 2 .active 3).zeroExtend 8
  | .aOver => (symCode 2 .active 4).zeroExtend 8
  | .aHold => (symCode 2 .active 5).zeroExtend 8
  | .resOkOrBytes n => n.zeroExtend 8
  | .resNodata => 0x81
  | .resBuserror => 0x82
  | .resDataerror => 0x83

/-- The words of an instruction: one. -/
def encode (i : Instr) : List Byte := [encodeWord i]

/-- The instruction of a word numbered as the opcode table numbers it, without being told its code
space. Words of six bits are symbol codes. In eight bits the spaces overlap, and the rows are tried
from the most specific: the three commands, the symbol classes, the results, and last the reserved
commands, whose row matches everything the rows above it leave (log 14). -/
def decodeTableWord (nbits w : Nat) : Option Instr :=
  let b : Byte := BitVec.ofNat 8 w
  if w ≥ 256 then none
  else if nbits ≤ 6 then (decode .sym b).toOption
  else if b = 0x01 ∨ b = 0x02 ∨ b = 0x03 then some (decodeCmd b)
  else match decode .sym b with
    | .ok i => some i
    | .error _ =>
      match decode .res b with
      | .ok i => some i
      | .error _ => some (decodeCmd b)

/-- A host access as the triple (we, addr, data) of the programs of `95_test_vectors.md` section 3;
the data of a read is not used. -/
def encodeAccess : Access → BitVec 1 × BitVec 5 × Byte
  | .rd a => (0, a, 0)
  | .wr a v => (1, a, v)

/-- The access a triple (we, addr, data) stands for. -/
def decodeAccess (t : BitVec 1 × BitVec 5 × Byte) : Access :=
  if t.1 = 1 then .wr t.2.1 t.2.2 else .rd t.2.1

end Sys2Proof
end

