-- ==== Sys2Proof/Machine/Receiver.lean ====
section
/-! DEFINITION. The VPW Receiver: `RECV` and the wire symbol classes (spec: `41_receiver.md` R95 to
R113, `30_encoding.md` R61). A symbol's meaning acts on the state whose `TCNT` is already `now`
(`40_timer_busline.md` R81); it does what its rule does in the phase its code names, and the step
runs it in that phase only. -/

namespace Sys2Proof.Machine

/-- `RECV`, the acceptance step of R96. While busy a command is ignored (R165). -/
def execRecv (s : State) : Outcome :=
  if s.phase = .idle then
    .next { s.timerStart with phase := .rxWait, nbytes := 0, nbits := 0, shreg := 0x00 }
  else .next s

/-- Byte completion (R102) and the cap (R103): the whole byte `v` is stored at the old `NBYTES`. -/
def storeByte (v : Byte) (s : State) : Outcome :=
  match s.fbWrite s.nbytes.toNat v with
  | none => .fault (.bufferIndex s.nbytes.toNat)
  | some t =>
    if s.nbytes + 1 = 12 then
      .next (finish (.bytes 12) { t with nbits := 0, nbytes := s.nbytes + 1 })
    else .next { t with nbits := 0, nbytes := s.nbytes + 1 }

/-- Bit extraction (R101): the bit of the completed pulse is shifted in, the new level `lv` becomes
the reference and the timer starts anew; the eighth bit completes a byte. -/
def takeBit (b : Bool) (lv : Level) (s : State) : Outcome :=
  let t := { s.timerStart with shreg := shiftIn s.shreg b, ref := lv }
  if s.nbits < 7 then .next { t with nbits := s.nbits + 1 }
  else storeByte (shiftIn s.shreg b) t

/-- End of data (R99): the bytes completed so far; a partial byte is dropped (R104). -/
def endOfData (s : State) : Outcome := .next (finish (.bytes s.nbytes.toNat) s)

/-- WAIT.TIMEOUT (R97). -/
def execWaitTimeout (s : State) : Outcome := .next (finish (.error .noData) s)

/-- WAIT.ACTIVITY (R97): the active run is measured from its own first sample. -/
def execWaitActivity (s : State) : Outcome := .next { s.timerStart with phase := .rxSof }

/-- SOF.TOOSHORT (R98). -/
def execSofTooshort (s : State) : Outcome := .next (finish (.error .busError) s)

/-- SOF.OK (R98): the first data pulse begins at this tick. -/
def execSofOk (s : State) : Outcome := .next { s.timerStart with phase := .rxBit, ref := .passive }

/-- SOF.TOOLONG (R98). -/
def execSofToolong (s : State) : Outcome := .next (finish (.error .busError) s)

/-- P.TOOSHORT (R100). -/
def execPTooshort (s : State) : Outcome := .next (finish (.error .busError) s)

/-- P.SHORT (R101): bit 1; the bus changed to active. -/
def execPShort (s : State) : Outcome := takeBit true .active s

/-- P.MID (R105): bit 0. -/
def execPMid (s : State) : Outcome := takeBit false .active s

/-- P.LONG (R101): bit 0. -/
def execPLong (s : State) : Outcome := takeBit false .active s

/-- P.OVER (R105): bit 0. -/
def execPOver (s : State) : Outcome := takeBit false .active s

/-- P.HOLD (R99). -/
def execPHold (s : State) : Outcome := endOfData s

/-- A.TOOSHORT (R100). -/
def execATooshort (s : State) : Outcome := .next (finish (.error .busError) s)

/-- A.SHORT (R101): bit 0; the bus changed to passive. -/
def execAShort (s : State) : Outcome := takeBit false .passive s

/-- A.MID (R105): bit 0. -/
def execAMid (s : State) : Outcome := takeBit false .passive s

/-- A.LONG (R101): bit 1. -/
def execALong (s : State) : Outcome := takeBit true .passive s

/-- A.OVER (R105): bit 0. -/
def execAOver (s : State) : Outcome := takeBit false .passive s

/-- A.HOLD (R99, R106). -/
def execAHold (s : State) : Outcome := endOfData s

/-- The receiver's classification of the run it measures (R61), tested level first (R182): the
symbol code of the class the sample `lv` completes or reaches, or none while the run goes on. `TCNT`
is `now`. -/
def symbolCode (s : State) (lv : Level) : Option (BitVec 6) :=
  match s.phase with
  | .rxWait =>
    if lv = .active then some (symCode 0 .passive 1)
    else if s.params.tNoData ≤ s.tcnt then some (symCode 0 .passive 5)
    else none
  | .rxSof =>
    if lv = .active then
      if s.params.rxSofMax ≤ s.tcnt then some (symCode 1 .active 5) else none
    else if s.tcnt < s.params.rxSofMin then some (symCode 1 .active 0)
    else some (symCode 1 .active 1)
  | .rxBit =>
    if lv = s.ref then
      if s.params.rxEodMin ≤ s.tcnt then some (symCode 2 s.ref 5) else none
    else some (symCode 2 s.ref (pulseWidth s.params s.ref s.tcnt))
  | .idle | .txIdle | .txSof | .txBit | .txEof => none

end Sys2Proof.Machine
end

