-- ==== Sys2Proof/Machine/Transmitter.lean ====
section
/-! DEFINITION. The VPW Transmitter: `XMIT` and the start of the next slot (spec: `42_transmitter.md`
R120 to R136). Its phase rules R122, R123, R125 and R126 stand in `Phases.lean`. -/

namespace Sys2Proof.Machine

/-- `XMIT`, acceptance and the length check (R121): more than 12 bytes is `DataError`, written to
`RESULT` with no other effect. While busy a command is ignored (R165). -/
def execXmit (s : State) : Outcome :=
  if s.phase = .idle then
    if 12 < s.len.toNat then .next (s.setResult (.error .dataError))
    else .next { s.timerStart with phase := .txIdle, nbytes := 0, nbits := 0 }
  else .next s

/-- The bits still to send (R124): a byte fetch at the first slot of a byte, else the shift
register. -/
def slotBits (s : State) : Option Byte :=
  if s.nbits = 0 then s.fbRead s.nbytes.toNat else some s.shreg

/-- The bit position of the next slot (R124), 7 first. -/
def slotPosition (s : State) : Nat := 7 - s.nbits.toNat

/-- The slot for the top bit of `v` goes on the wire (R124). -/
def startSlot (v : Byte) (s : State) : State :=
  let lv := slotLevel (slotPosition s)
  { s.timerStart with
    dur := txdur s.params lv v.msb, drv := lv, phase := .txBit, shreg := shiftOut v,
    nbits := s.nbits + 1,
    nbytes := if s.nbits = 7 then s.nbytes + 1 else s.nbytes }

/-- `next_slot` of R124: the end of frame when every byte has been sent, else the next bit slot.
`NBITS + 1` wraps to 0 after the eighth slot of a byte. -/
def nextSlot (s : State) : Outcome :=
  if s.nbytes.toNat = s.len.toNat then
    .next { s.drivePassive.timerStart with phase := .txEof }
  else match slotBits s with
    | none => .fault (.bufferIndex s.nbytes.toNat)
    | some v => .next (startSlot v s)

end Sys2Proof.Machine
end

