-- ==== Sys2Proof/Machine/Dispatch.lean ====
section
/-! DEFINITION. One arm per instruction. -/

namespace Sys2Proof.Machine

def exec (i : Instr) (s : State) : Host.Outcome State Fault Refusal :=
  match i with
  | .recv => Sys2Proof.Machine.execRecv s
  | .xmit => Sys2Proof.Machine.execXmit s
  | .crc => Sys2Proof.Machine.execCrc s
  | .cmdReserved v => Sys2Proof.Machine.execCmdReserved v s
  | .waitTimeout => Sys2Proof.Machine.execWaitTimeout s
  | .waitActivity => Sys2Proof.Machine.execWaitActivity s
  | .sofTooshort => Sys2Proof.Machine.execSofTooshort s
  | .sofOk => Sys2Proof.Machine.execSofOk s
  | .sofToolong => Sys2Proof.Machine.execSofToolong s
  | .pTooshort => Sys2Proof.Machine.execPTooshort s
  | .pShort => Sys2Proof.Machine.execPShort s
  | .pMid => Sys2Proof.Machine.execPMid s
  | .pLong => Sys2Proof.Machine.execPLong s
  | .pOver => Sys2Proof.Machine.execPOver s
  | .pHold => Sys2Proof.Machine.execPHold s
  | .aTooshort => Sys2Proof.Machine.execATooshort s
  | .aShort => Sys2Proof.Machine.execAShort s
  | .aMid => Sys2Proof.Machine.execAMid s
  | .aLong => Sys2Proof.Machine.execALong s
  | .aOver => Sys2Proof.Machine.execAOver s
  | .aHold => Sys2Proof.Machine.execAHold s
  | .resOkOrBytes n => Sys2Proof.Machine.execResOkOrBytes n s
  | .resNodata => Sys2Proof.Machine.execResNodata s
  | .resBuserror => Sys2Proof.Machine.execResBuserror s
  | .resDataerror => Sys2Proof.Machine.execResDataerror s

end Sys2Proof.Machine
end

