-- ==== Sys2Proof/Machine/Phases.lean ====
section
/-! DEFINITION. What the block does in one tick (spec: `40_timer_busline.md` R81): the host access while
idle (`44_host_interface.md` R161 to R163), the receiver's fetch of the symbol it has measured
(`30_encoding.md` R61), the transmitter's phase rules (`42_transmitter.md` R122 to R126) and reset
(`70_reset_and_hazards.md` R195). -/

namespace Sys2Proof.Machine

/-- A host write while idle (R162, R163). -/
def hostWrite (a : BitVec 5) (v : Byte) (s : State) : Outcome :=
  match hostReg a with
  | .fb i => .next { s with fb := s.fb.set i v }
  | .len => .next { s with len := v }
  | .cmd => exec (decodeCmd v) s
  | .tmomult => .next { s with tmomult := v }
  | .status => .next s
  | .result => .next s
  | .crcout => .next s
  | .reserved => .next s

/-- The access presented in an idle tick, if any (R81). -/
def hostAccess (a : Option Access) (s : State) : Outcome :=
  match a with
  | none => .next s
  | some (.rd addr) => .next { s with rdata := some (s.readReg addr) }
  | some (.wr addr v) => hostWrite addr v s

/-- A receiver phase: the code of the class the sample completes is decoded and run; while the run
goes on nothing happens. `TCNT` is `now`. -/
def rxPhase (lv : Level) (s : State) : Outcome :=
  match symbolCode s lv with
  | none => .next s
  | some w =>
    match decodeSym w with
    | .ok i => exec i s
    | .error _ => .refused (.undefinedSymbol w)

/-- `TX_IDLE` (R122). -/
def txIdlePhase (lv : Level) (s : State) : Outcome :=
  if lv = .active then .next s.timerStart
  else if s.params.rxIfsMin ≤ s.tcnt then .next { s.driveActive.timerStart with phase := .txSof }
  else .next s

/-- `TX_SOF` (R123): the sample is not examined. -/
def txSofPhase (s : State) : Outcome := if s.params.txSof ≤ s.tcnt then nextSlot s else .next s

/-- `TX_BIT` (R125): the collision test comes before the duration test. -/
def txBitPhase (lv : Level) (s : State) : Outcome :=
  if s.drv = .passive ∧ lv = .active then exec .resBuserror s
  else if s.dur ≤ s.tcnt then nextSlot s
  else .next s

/-- `TX_EOF` (R126): the sample is not examined. -/
def txEofPhase (s : State) : Outcome :=
  if s.params.txEof ≤ s.tcnt then exec (.resOkOrBytes 0) s else .next s

/-- The rule of the current phase, on the state whose `TCNT` is `now` (R81). In `IDLE` there is
none. -/
def phaseRule (lv : Level) (s : State) : Outcome :=
  match s.phase with
  | .idle => .next s
  | .rxWait => rxPhase lv s
  | .rxSof => rxPhase lv s
  | .rxBit => rxPhase lv s
  | .txIdle => txIdlePhase lv s
  | .txSof => txSofPhase s
  | .txBit => txBitPhase lv s
  | .txEof => txEofPhase s

/-- The state an instruction or a phase rule of a busy tick sees: the input used up, the host's access
handled by R164, and `TCNT <- now` (R81). -/
def State.busyTick (s : State) : State :=
  { s.advance.accessWhileBusy s.input.access with tcnt := s.nextTicks }

/-- One tick: reset wins over everything (R195); an idle block performs the host access, and a busy one
counts and applies the rule of its phase (R81). -/
def tickStep (s : State) : Outcome :=
  if s.input.rst then .next (s.advance.accessUnderReset s.input.access).resetStep
  else if s.phase = .idle then hostAccess s.input.access s.advance
  else phaseRule s.input.sample s.busyTick

end Sys2Proof.Machine
end

