-- ==== Sys2Proof/Machine/Stage.lean ====
section
/-! DEFINITION. How an instruction is put where the next step fetches it (log 15). The block fetches
nothing at a program counter: a command comes with a host write, a symbol is the run the receiver has
just measured, a result is the completion of an operation. -/

namespace Sys2Proof.Machine

/-- A tick in which the sample is `lv` and nothing else happens. -/
def quietTick (lv : Level) : TickIn := ⟨false, lv, .passive, none⟩

/-- The coming tick presents the write of a command byte to an idle block. -/
def State.stageCommand (v : Byte) (s : State) : State :=
  { s with phase := .idle, inputs := ⟨false, .passive, .passive, some (.wr cmdAddr v)⟩ :: s.inputs }

/-- The receiver has measured `now - 1` ticks in phase `p` with reference `lv` and the coming sample is
`next`. The windows are those of TSET-1, under which every class of the table has a length. -/
def State.stageRun (p : Phase) (lv : Level) (now : Nat) (next : Level) (s : State) : State :=
  { s with
    params := .tset1, phase := p, ref := lv, tcnt := now - 1, inputs := quietTick next :: s.inputs }

/-- A completed data pulse of level `lv` and length `d`. -/
def State.stagePulse (lv : Level) (d : Nat) (s : State) : State := s.stageRun .rxBit lv d lv.not

/-- The state whose next step runs the instruction. -/
def State.stage (i : Instr) (s : State) : State :=
  let P := Params.tset1
  match i with
  | .recv => s.stageCommand 0x01
  | .xmit => s.stageCommand 0x02
  | .crc => s.stageCommand 0x03
  | .cmdReserved v => s.stageCommand v
  | .waitTimeout => s.stageRun .rxWait s.ref P.tNoData .passive
  | .waitActivity => s.stageRun .rxWait s.ref 1 .active
  | .sofTooshort => s.stageRun .rxSof s.ref (P.rxSofMin - 1) .passive
  | .sofOk => s.stageRun .rxSof s.ref P.rxSofMin .passive
  | .sofToolong => s.stageRun .rxSof s.ref P.rxSofMax .active
  | .pTooshort => s.stagePulse .passive (P.rxShortMin - 1)
  | .pShort => s.stagePulse .passive P.rxShortMin
  | .pMid => s.stagePulse .passive P.rxShortMax
  | .pLong => s.stagePulse .passive (P.rxLongMin + 1)
  | .pOver => s.stagePulse .passive P.rxLongMax
  | .pHold => s.stageRun .rxBit .passive P.rxEodMin .passive
  | .aTooshort => s.stagePulse .active (P.rxShortMin - 1)
  | .aShort => s.stagePulse .active P.rxShortMin
  | .aMid => s.stagePulse .active P.rxShortMax
  | .aLong => s.stagePulse .active (P.rxLongMin + 1)
  | .aOver => s.stagePulse .active P.rxLongMax
  | .aHold => s.stageRun .rxBit .active P.rxEodMin .active
  | .resOkOrBytes n =>
    State.stageRun .rxBit .passive P.rxEodMin .passive { s with nbytes := n.setWidth 4 }
  | .resNodata => s.stageRun .rxWait s.ref P.tNoData .passive
  | .resBuserror => { s with phase := .txBit, drv := .passive, inputs := quietTick .active :: s.inputs }
  | .resDataerror => State.stageCommand 0x02 { s with len := 13 }

end Sys2Proof.Machine
end

