-- ==== Sys2Proof/Machine/Step.lean ====
section
/-! DEFINITION. The step of the machine: one tick (spec: `40_timer_busline.md` R80, R81). -/

namespace Sys2Proof.Machine

/-- One step per tick (R80). -/
def step (s : State) : Host.Outcome State Fault Refusal := tickStep s

/-- The state whose next step runs the instruction of a table word; unchanged where the word is none. -/
def State.withFetchWord (s : State) (nbits w : Nat) : State :=
  match decodeTableWord nbits w with
  | some i => s.stage i
  | none => s

end Sys2Proof.Machine
end

