-- ==== Sys2Proof/Machine/Script.lean ====
section
/-! DEFINITION. The spec's notation for what the outside does: waveforms and host scripts (spec:
`30_encoding.md` R72, R73; `44_host_interface.md` R166). -/

namespace Sys2Proof.Machine

/-- A waveform of R72: tokens `A<n>` and `P<n>`, each `n` consecutive samples of one level. -/
abbrev Waveform := List (Level × Nat)

/-- The samples of a waveform, one per tick. -/
def Waveform.samples (w : Waveform) : List Level := w.flatMap fun tok => List.replicate tok.2 tok.1

/-- A line of a host script: an access of R72 or a mnemonic of R73. `POLL` is `poll k`, its first `k`
reads: how many it makes depends on the block. -/
inductive ScriptLine where
  | wr (addr : BitVec 5) (v : Byte)
  | rd (addr : BitVec 5)
  | poll (k : Nat)
  | recv
  | xmit
  | xmitLen (n : Byte)
  | crc
  | crcLen (n : Byte)
  | load (bs : List Byte)
  deriving DecidableEq, Repr

/-- `WR FB[i], b` for the bytes of a list in buffer order, from index `i` (R73). -/
def loadFrom (i : Nat) : List Byte → List Access
  | [] => []
  | b :: rest => .wr (BitVec.ofNat 5 i) b :: loadFrom (i + 1) rest

/-- The accesses a script line stands for (R73). `LOAD` writes `FB` only, so it ends with the twelfth
byte (log 21). -/
def ScriptLine.expand : ScriptLine → List Access
  | .wr a v => [.wr a v]
  | .rd a => [.rd a]
  | .poll k => List.replicate k (.rd statusAddr)
  | .recv => [.wr cmdAddr 0x01]
  | .xmit => [.wr cmdAddr 0x02]
  | .xmitLen n => [.wr 0x10 n, .wr cmdAddr 0x02]
  | .crc => [.wr cmdAddr 0x03]
  | .crcLen n => [.wr 0x10 n, .wr cmdAddr 0x03]
  | .load bs => loadFrom 0 (bs.take maxFrame)

/-- The source's calls (R166). A transmit has a length of its own beside its buffer (R31). -/
inductive SourceCall where
  | receive
  | transmit (buffer : List Byte) (length : Byte)
  | checksum (bs : List Byte)
  | getTimeout
  | setTimeout (v : Byte)
  deriving DecidableEq, Repr

/-- The addresses of a received frame: when bit 7 of `RESULT` is 0 and its value is `n`, those of `FB[0]`
to `FB[n-1]`, else none (R166, row `receive`). -/
def frameAddrs (result : Byte) : List (BitVec 5) :=
  if result.msb then [] else (List.range result.toNat).map (BitVec.ofNat 5)

/-- A length as a `LEN` byte; one that no byte holds is written as 255, which is above every frame
(log 21). -/
def lenByte (n : Nat) : Byte := BitVec.ofNat 8 (min n 255)

/-- Where the caller finds the result of a call (R166, last column): the addresses it reads, `result`
being the byte that `RD RESULT` returns. -/
def SourceCall.resultAddrs (result : Byte) : SourceCall → List (BitVec 5)
  | .receive => 0x13 :: frameAddrs result
  | .transmit _ _ => [0x13]
  | .checksum _ => [0x14]
  | .getTimeout => [0x15]
  | .setTimeout _ => []

/-- What a call does before it reads its result (R166): `k` is how often the poll loop reads `STATUS`. -/
def SourceCall.issue (k : Nat) : SourceCall → List ScriptLine
  | .receive => [.recv, .poll k]
  | .transmit buffer length => [.load (buffer.take length.toNat), .wr 0x10 length, .xmit, .poll k]
  | .checksum bs => [.load bs, .wr 0x10 (lenByte bs.length), .crc]
  | .getTimeout => []
  | .setTimeout v => [.wr 0x15 v]

/-- The whole script of a call (R166). -/
def SourceCall.script (k : Nat) (result : Byte) (c : SourceCall) : List ScriptLine :=
  c.issue k ++ (c.resultAddrs result).map .rd

/-- One access per tick (R160), the bus passive where the waveform has ended (R72). -/
def scriptTicks (accesses : List Access) (samples : List Level) : List TickIn :=
  match accesses with
  | [] => samples.map fun lv => ⟨false, lv, .passive, none⟩
  | a :: rest => ⟨false, samples.headD .passive, .passive, some a⟩ :: scriptTicks rest samples.tail

end Sys2Proof.Machine
end

