-- ==== Sys2Proof/Safety.lean ====
section
/-! DEFINITION. What counts as a safe tick, and the invariants claims are stated with (spec: `10_state.md`
R39, `40_timer_busline.md` R85, R90, `44_host_interface.md` R166). -/

namespace Sys2Proof.Machine

namespace State

/-- The premise `BusReadback` of R90 for the coming tick: the sample is the level of the wire. Not
assumed by the machine (log 2). -/
def BusReadback (s : State) : Prop := s.input.sample = s.busLevel

/-- The host keeps its duties in the coming tick (R166): while busy it reads nothing but `STATUS`; while
idle it uses no reserved address (R45), writes no reserved command (R67) and issues `CRC` only with
`LEN ≤ 12` (R150). The machine goes on where a duty is broken (log 7); a claim that wants the spec's
`refuse` takes this as a premise. -/
def hostDuty (s : State) : Bool :=
  match s.input.access with
  | none => true
  | some (.rd a) => if s.busy then hostReg a == .status else hostReg a != .reserved
  | some (.wr a v) =>
    !s.busy && hostReg a != .reserved &&
      (hostReg a != .cmd || v == 0x01 || v == 0x02 || (v == 0x03 && decide (s.len.toNat ≤ 12)))

/-- A safe tick: no reset, the host keeps its duties and the sample is the wire's level. -/
def SafeTick (s : State) : Prop := s.input.rst = false ∧ s.hostDuty = true ∧ s.BusReadback

/-- `RESULT` is the code of the tagged result, and 0x00 before any operation has completed (R32, R68,
R69). -/
def resultCoherent (s : State) : Prop :=
  match s.resultTag with
  | none => s.result = 0x00
  | some r => r.wf = true ∧ s.result = enc r

/-- The level of the slot now on the wire in `TX_BIT` (R65, R124): `NBITS` already names the next slot,
so the slot on the wire carries bit `8 - NBITS`, bit 0 when `NBITS` has returned to 0. -/
def slotOnWire (s : State) : Level := slotLevel ((8 - s.nbits.toNat) % 8)

/-- How many slots of the frame have been started (R124: `8 * NBYTES + NBITS`). -/
def slotsStarted (s : State) : Nat := 8 * s.nbytes.toNat + s.nbits.toNat

/-- The invariant of R39, with what it needs to be kept by a step. -/
structure Inv (s : State) : Prop where
  /-- The buffer is in canonical form (log 5). -/
  fb_wf : Memory.wf s.fb = true
  /-- `TCNT` has `W_TIMER` bits (R22). -/
  tcnt_lt : s.tcnt < 2 ^ s.params.wTimer
  /-- `TRUN` is 1 exactly when the phase is not `IDLE` (R23, R39 item 1). -/
  trun_busy : s.trun = s.busy
  /-- The line is released when no operation runs (R24, R39 item 1). -/
  idle_released : s.phase = .idle → s.drv = .passive
  /-- A receive never drives (R39 item 2). -/
  rx_released : s.phase.isRx = true → s.drv = .passive
  /-- `0 ≤ NBYTES ≤ 12` (R39 item 3; the range of `NBITS` is its type). -/
  nbytes_le : s.nbytes.toNat ≤ 12
  /-- In `RX_BIT`, `NBYTES ≤ 11` (R39 item 3). -/
  rxBit_room : s.phase = .rxBit → s.nbytes.toNat ≤ 11
  /-- No bit has been received before `RX_BIT` (R96). -/
  rx_start : s.phase = .rxWait ∨ s.phase = .rxSof → s.nbytes = 0 ∧ s.nbits = 0 ∧ s.shreg = 0
  /-- An `XMIT` runs with `LEN ≤ 12` (R121, R39 item 7). -/
  tx_len : s.phase.isTx = true → s.len.toNat ≤ 12
  /-- No slot has been started before the SOF has ended (R121). -/
  tx_start : s.phase = .txIdle ∨ s.phase = .txSof → s.nbytes = 0 ∧ s.nbits = 0
  /-- In `TX_SOF`, `DRV` is active (R39 item 6). -/
  txSof_active : s.phase = .txSof → s.drv = .active
  /-- In `TX_IDLE` and `TX_EOF`, `DRV` is passive (R39 item 6). -/
  txEnds_passive : s.phase = .txIdle ∨ s.phase = .txEof → s.drv = .passive
  /-- In `TX_BIT`, `DRV` is the level of the slot on the wire (R39 item 6). -/
  txBit_level : s.phase = .txBit → s.drv = s.slotOnWire
  /-- In `TX_BIT` at least one slot has been started and none beyond the last (R39 item 7). -/
  txBit_slots : s.phase = .txBit → 1 ≤ s.slotsStarted ∧ s.slotsStarted ≤ 8 * s.len.toNat
  /-- In `TX_BIT`, `DUR` is one of the two slot lengths (R29). -/
  txBit_dur : s.phase = .txBit → s.dur = s.params.txShort ∨ s.dur = s.params.txLong
  /-- In `TX_EOF` every bit of every byte has had its slot (R124). -/
  txEof_done : s.phase = .txEof → s.nbytes.toNat = s.len.toNat ∧ s.nbits = 0
  /-- `RESULT` never holds a reserved value (R69). -/
  result_coherent : s.resultCoherent

/-- The window constant at which the current phase ends or restarts its timer (R85). -/
def timerLimit (s : State) : Nat :=
  match s.phase with
  | .idle => 2 ^ s.params.wTimer
  | .rxWait => s.params.tNoData
  | .rxSof => s.params.rxSofMax
  | .rxBit => s.params.rxEodMin
  | .txIdle => s.params.rxIfsMin
  | .txSof => s.params.txSof
  | .txBit => s.dur
  | .txEof => s.params.txEof

/-- The timer has not reached the limit of its phase (R85): with WF1 the next increment does not
wrap. -/
def TimerBounded (s : State) : Prop := s.tcnt < s.timerLimit

end State

/-- The coming ticks are those of the list, none of them a reset. -/
def State.Coming (s : State) (ts : List TickIn) : Prop :=
  (∃ rest, s.inputs = ts ++ rest) ∧ ∀ t ∈ ts, t.rst = false

/-- The levels this node puts on the wire in the coming `n` ticks (R89), as far as the machine runs. -/
def drvTrace : Nat → State → List Level
  | 0, _ => []
  | n + 1, s =>
    match step s with
    | .next t => s.drvOut :: drvTrace n t
    | .fault _ => [s.drvOut]
    | .refused _ => [s.drvOut]

end Sys2Proof.Machine
end

