-- ==== Sys2Proof/Certificates/Slice0/Obligations.lean ====
section
/-! DEFINITION. The statements about the machine that are to be proved, and the few words they are
stated with (`Sys2Proof.Claims`). Each docstring names the rule of spec/ it formalises. -/

open Sys2Proof Sys2Proof.Machine

/-- A success or error completion as R180 lists it, with the code spelled out: `RESULT` written, line
released, timer stopped, phase idle, nothing else touched. The tagged result beside the code is the model's
own field (log 19). -/
def Sys2Proof.Claims.completed (code : Byte) (r : Result) (s : State) : State :=
  { s with result := code, resultTag := some r, drv := .passive, trun := false, phase := .idle }

/-- The symbols that carry a bit, with the bit and the level the bus changed to (R61). -/
def Sys2Proof.Claims.symBit : Instr → Option (Bool × Level)
  | .pShort => some (true, .active)
  | .pMid => some (false, .active)
  | .pLong => some (false, .active)
  | .pOver => some (false, .active)
  | .aShort => some (false, .passive)
  | .aMid => some (false, .passive)
  | .aLong => some (true, .passive)
  | .aOver => some (false, .passive)
  | _ => none

/-- `(v << 1)[7:0] | b` written out (R71). -/
def Sys2Proof.Claims.shifted (v : Byte) (b : Bool) : Byte := v <<< 1 ||| (if b then 0x01 else 0x00)

/-- Whether an instruction, run in this state, completes an operation through `finish` (R180): the error
and end-of-data symbols, the result codes but `DataError`, and a bit that completes the twelfth byte. That
a result code run as an instruction is a completion is the model's choice (log 13). -/
def Sys2Proof.Claims.completes (s : State) : Instr → Bool
  | .recv | .xmit | .crc | .cmdReserved _ | .waitActivity | .sofOk | .resDataerror => false
  | .waitTimeout | .sofTooshort | .sofToolong | .pTooshort | .aTooshort | .pHold | .aHold => true
  | .pShort | .pMid | .pLong | .pOver | .aShort | .aMid | .aLong | .aOver =>
    s.nbits == 7 && s.nbytes == 11
  | .resOkOrBytes _ | .resNodata | .resBuserror => true

/-- Whether an instruction, run in this state, writes `RESULT` (R32): a completion, the `DataError` code
(an instruction by the model's choice, log 13), or an `XMIT` accepted with `LEN > 12`. -/
def Sys2Proof.Claims.writesResult (s : State) (i : Instr) : Bool :=
  Claims.completes s i || i == .resDataerror ||
    (i == .xmit && s.phase == .idle && decide (12 < s.len.toNat))

/-- The class the receiver gives the run it has measured when the sample is `lv`, if any. -/
def Sys2Proof.Claims.measured (s : State) (lv : Level) : Option Instr :=
  (symbolCode s lv).bind fun w => (decodeSym w).toOption

/-- One step of the shift register of the polynomial 0x1D (R149). -/
def Sys2Proof.Claims.polyStep (c : Byte) : Byte := c <<< 1 ^^^ (if c.msb then 0x1D else 0x00)

/-- The slots of a frame (R131): for each byte, bit 7 down to bit 0, its level by R65 and its length by
R59. -/
def Sys2Proof.Claims.frameWave (P : Params) (bs : List Byte) : Waveform :=
  bs.flatMap fun x => [7, 6, 5, 4, 3, 2, 1, 0].map fun p =>
    (slotLevel p, txdur P (slotLevel p) (x.getLsbD p))

/-- What an `XMIT` puts on the wire from a state of its idle wait in which the line has been passive for
`c` ticks (R131). -/
def Sys2Proof.Claims.xmitWave (P : Params) (c : Nat) (bs : List Byte) : Waveform :=
  (.passive, P.rxIfsMin - c) :: (.active, P.txSof) ::
    (Claims.frameWave P bs ++ [(.passive, P.txEof)])

/-- In the coming `n` ticks there is no reset, no other node drives and the sample is the level of the
wire (`BusReadback`, R90). -/
def Sys2Proof.Claims.quietBus : Nat → State → Bool
  | 0, _ => true
  | n + 1, s =>
    !s.input.rst && s.input.others == .passive && s.input.sample == s.busLevel &&
      match step s with
      | .next t => Claims.quietBus n t
      | .fault _ => true
      | .refused _ => true

/-- The coming `n` steps are the rest of an `XMIT` that ends in `Ok`: the block is in a transmit phase
before the last of them and idle after it (R136: to completion without collision). -/
def Sys2Proof.Claims.sendsUntil (n : Nat) (s : State) : Prop :=
  (∀ k, k < n → ∃ u : State, Host.Core.run core k s = .next u ∧ u.phase.isTx = true) ∧
  ∃ t : State, Host.Core.run core n s = .next t ∧ t.phase = .idle ∧ t.resultTag = some .ok

/-- Among the samples there is an active one before `ifs` passive ones follow each other, `c` of them
having gone before (R133). -/
def Sys2Proof.Claims.neverIdle (ifs : Nat) : Nat → List Level → Bool
  | _, [] => true
  | _, .active :: rest => Claims.neverIdle ifs 0 rest
  | c, .passive :: rest => decide (c + 1 < ifs) && Claims.neverIdle ifs (c + 1) rest

/-! ### Encodings -/

/-- R55, R66 to R69, R61: no bit of an encoding is dropped. -/
def Obligations.DecodeOfEncodeIsIdentity : Prop :=
  ∀ (i : Instr) (rest : List Byte), i.wf = true →
    decodeBytes i.space (encode i ++ rest) = .ok (i, rest)

/-- A code has one meaning, and what is decoded is well formed (R66 to R69). -/
def Obligations.DecodedCodesEncodeBack : Prop :=
  ∀ (sp : Space) (w : Byte) (i : Instr), decode sp w = .ok i →
    i.wf = true ∧ i.space = sp ∧ encodeWord i = w

/-- Words written out from R66, R61 and R68. -/
def Obligations.DecodeOfSpecWords : Prop :=
  decode .cmd 0b00000001 = .ok .recv ∧ decode .cmd 0b00000010 = .ok .xmit ∧
  decode .cmd 0b00000011 = .ok .crc ∧ decode .cmd 0b00000000 = .ok (.cmdReserved 0) ∧
  decode .sym 0b00000101 = .ok .waitTimeout ∧ decode .sym 0b00011001 = .ok .sofOk ∧
  decode .sym 0b00100001 = .ok .pShort ∧ decode .sym 0b00101011 = .ok .aLong ∧
  decode .res 0b00001100 = .ok (.resOkOrBytes 12) ∧ decode .res 0b10000010 = .ok .resBuserror ∧
  decode .res 0b00001101 = .error (.reservedResult 0x0D)

/-- R68, every row of its table. -/
def Obligations.ResultCodesAreAsTabled : Prop :=
  enc .ok = 0x00 ∧ (∀ n, n ≤ 12 → (enc (.bytes n)).toNat = n ∧ (enc (.bytes n)).msb = false) ∧
  enc (.error .noData) = 0x81 ∧ enc (.error .busError) = 0x82 ∧ enc (.error .dataError) = 0x83

/-- R60: what is sent is what is decoded, for both levels and both bits. -/
def Obligations.BitvalInvertsTxdur : Prop :=
  ∀ P : Params, P.WF2 → P.WF3 → P.WF4 → ∀ lv b, bitval P lv (txdur P lv b) = b

/-- R61 with R100 before it: the class of every measured run. WF9 keeps MID and OVER apart
(log 10). -/
def Obligations.RunClassesFollowTable : Prop :=
  ∀ s : State, s.params.WF4 → s.params.WF5 → s.params.WF9 →
    (s.phase = .rxWait →
      Claims.measured s .active = some .waitActivity ∧
      (s.params.tNoData ≤ s.tcnt → Claims.measured s .passive = some .waitTimeout) ∧
      (s.tcnt < s.params.tNoData → Claims.measured s .passive = none)) ∧
    (s.phase = .rxSof →
      (s.tcnt < s.params.rxSofMin → Claims.measured s .passive = some .sofTooshort) ∧
      (s.params.rxSofMin ≤ s.tcnt → s.tcnt ≤ s.params.rxSofMax →
        Claims.measured s .passive = some .sofOk) ∧
      (s.params.rxSofMax ≤ s.tcnt → Claims.measured s .active = some .sofToolong) ∧
      (s.tcnt < s.params.rxSofMax → Claims.measured s .active = none)) ∧
    (s.phase = .rxBit → s.ref = .passive →
      (s.tcnt < s.params.rxShortMin → Claims.measured s .active = some .pTooshort) ∧
      (s.params.rxShortMin ≤ s.tcnt →
        (s.tcnt < s.params.rxShortMax → Claims.measured s .active = some .pShort) ∧
        (s.params.rxShortMax ≤ s.tcnt → s.tcnt ≤ s.params.rxLongMin →
          Claims.measured s .active = some .pMid) ∧
        (s.params.rxLongMin < s.tcnt → s.tcnt < s.params.rxLongMax →
          Claims.measured s .active = some .pLong) ∧
        (s.params.rxLongMax ≤ s.tcnt → Claims.measured s .active = some .pOver)) ∧
      (s.params.rxEodMin ≤ s.tcnt → Claims.measured s .passive = some .pHold) ∧
      (s.tcnt < s.params.rxEodMin → Claims.measured s .passive = none)) ∧
    (s.phase = .rxBit → s.ref = .active →
      (s.tcnt < s.params.rxShortMin → Claims.measured s .passive = some .aTooshort) ∧
      (s.params.rxShortMin ≤ s.tcnt →
        (s.tcnt < s.params.rxShortMax → Claims.measured s .passive = some .aShort) ∧
        (s.params.rxShortMax ≤ s.tcnt → s.tcnt ≤ s.params.rxLongMin →
          Claims.measured s .passive = some .aMid) ∧
        (s.params.rxLongMin < s.tcnt → s.tcnt < s.params.rxLongMax →
          Claims.measured s .passive = some .aLong) ∧
        (s.params.rxLongMax ≤ s.tcnt → Claims.measured s .passive = some .aOver)) ∧
      (s.params.rxEodMin ≤ s.tcnt → Claims.measured s .active = some .aHold) ∧
      (s.tcnt < s.params.rxEodMin → Claims.measured s .active = none))

/-! ### Reset -/

/-- R38: every value the table gives (`FB` is unspecified there). -/
def Obligations.ResetStateValues : Prop :=
  State.reset.phase = .idle ∧ State.reset.tcnt = 0 ∧ State.reset.trun = false ∧
  State.reset.drv = .passive ∧ State.reset.ref = .passive ∧ State.reset.shreg = 0x00 ∧
  State.reset.nbits = 0 ∧ State.reset.nbytes = 0 ∧ State.reset.dur = 0 ∧
  State.reset.len = 0x00 ∧ State.reset.result = 0x00 ∧ State.reset.crcout = 0x00 ∧
  State.reset.tmomult = 25 ∧ State.reset.status = 0x00

/-- R195, R196: a tick with `rst` asserted is the reset step, whatever the phase and the access. The
clauses on `tick`, `params` and `inputs` are about the model's own fields (logs 1, 3, 6). -/
def Obligations.ResetStepResetsEverything : Prop :=
  ∀ s : State, s.input.rst = true → ∃ t, step s = .next t ∧
    t.phase = .idle ∧ t.trun = false ∧ t.tcnt = 0 ∧ t.drv = .passive ∧ t.ref = .passive ∧
    t.shreg = 0x00 ∧ t.nbits = 0 ∧ t.nbytes = 0 ∧ t.dur = 0 ∧ t.len = 0x00 ∧ t.result = 0x00 ∧
    t.crcout = 0x00 ∧ t.tmomult = 25 ∧ t.status = 0x00 ∧ t.tick = 0 ∧
    t.params = s.params ∧ t.inputs = s.inputs.tail

/-! ### The step and what it fetches -/

/-- R163: a step in which an idle block is written a command byte runs the command it decodes to. -/
def Obligations.StepRunsWrittenCommand : Prop :=
  ∀ (s : State) (v : Byte), s.input.rst = false → s.phase = .idle →
    s.input.access = some (.wr 0x11 v) → step s = exec (decodeCmd v) s.advance

/-- R81, R61: a step in a receiver phase runs the symbol the measured run decodes to, on the state in
which `TCNT` is `now`, and only counts while the run goes on. -/
def Obligations.StepRunsMeasuredSymbol : Prop :=
  ∀ s : State, s.input.rst = false → s.phase.isRx = true →
    (∀ w i, symbolCode s.busyTick s.input.sample = some w → decodeSym w = .ok i →
      step s = exec i s.busyTick) ∧
    (symbolCode s.busyTick s.input.sample = none → step s = .next s.busyTick)

/-- The host's own placement (log 15): the next step runs the instruction of the word. -/
def Obligations.FetchedWordRunsNext : Prop :=
  ∀ (s : State) (nbits w : Nat) (i : Instr), decodeTableWord nbits w = some i →
    ∃ t, step (s.withFetchWord nbits w) = exec i t ∧
      (t = (s.withFetchWord nbits w).advance ∨ t = (s.withFetchWord nbits w).busyTick)

/-- R81, R82: what a busy tick hands its rule, written out, with the model's own counters (logs 1, 6,
8). -/
def Obligations.BusyTickCountsOne : Prop :=
  ∀ s : State, ∃ r, s.busyTick =
    { s with
      tcnt := (s.tcnt + 1) % 2 ^ s.params.wTimer, rdata := r, inputs := s.inputs.tail,
      tick := s.tick + 1, fresh := s.fresh + 1 }

/-- R22, R81, R83: in every step without reset the timer counts one, restarts or, while idle, stands
still but for an accepted command. That an accepted command sets `TRUN` is R96 and R121. -/
def Obligations.TimerCountsRestartsOrStands : Prop :=
  ∀ s t : State, s.input.rst = false → step s = .next t →
    (s.phase ≠ .idle → t.tcnt = 0 ∨ t.tcnt = (s.tcnt + 1) % 2 ^ s.params.wTimer) ∧
    (s.phase = .idle → t.tcnt = s.tcnt ∨
      (t.tcnt = 0 ∧ t.trun = true ∧ ∃ v, s.input.access = some (.wr 0x11 v)))

/-! ### The host port -/

/-- R161: an idle read answers with the register and has no side effect. That a reserved address is
answered by a free byte and not refused is the model's choice (log 8). -/
def Obligations.IdleReadReturnsRegister : Prop :=
  ∀ (s : State) (a : BitVec 5), s.input.rst = false → s.phase = .idle →
    s.input.access = some (.rd a) → ∃ v, step s = .next { s.advance with rdata := some v } ∧
      (a.toNat ≤ 11 → v = s.fbByte a.toNat) ∧ (a = 0x10 → v = s.len) ∧ (a = 0x11 → v = 0x00) ∧
      (a = 0x12 → v = 0x00) ∧ (a = 0x13 → v = s.result) ∧ (a = 0x14 → v = s.crcout) ∧
      (a = 0x15 → v = s.tmomult)

/-- R162: what an idle write to each register does. Of the buffer, one byte changes. A reserved
address is ignored, the effect R162 gives the hardware (log 7). -/
def Obligations.IdleWriteStoresRegister : Prop :=
  ∀ (s : State) (a : BitVec 5) (v : Byte), s.input.rst = false → s.phase = .idle →
    s.input.access = some (.wr a v) →
      (a.toNat ≤ 11 → ∃ m, step s = .next { s.advance with fb := m } ∧
        ({ s.advance with fb := m } : State).fbByte a.toNat = v ∧
        ∀ j, j ≠ a.toNat → ({ s.advance with fb := m } : State).fbByte j = s.fbByte j) ∧
      (a = 0x10 → step s = .next { s.advance with len := v }) ∧
      (a = 0x15 → step s = .next { s.advance with tmomult := v }) ∧
      (a = 0x12 ∨ a = 0x13 ∨ a = 0x14 → step s = .next s.advance) ∧
      (12 ≤ a.toNat ∧ a.toNat ≤ 15 ∨ 22 ≤ a.toNat → step s = .next s.advance)

/-- R164, R165: what the host presents while an operation runs changes the answer to a read and nothing
else, and a read of `STATUS` is answered 0x01. That other accesses are not refused is the model's choice
(logs 7, 8). -/
def Obligations.BusyAccessDisturbsNothing : Prop :=
  ∀ (s t : State) (i : TickIn) (rest : List TickIn) (a : Option Access),
    s.phase ≠ .idle → i.rst = false → step { s with inputs := i :: rest } = .next t →
    ∃ r, step { s with inputs := { i with access := a } :: rest } = .next { t with rdata := r } ∧
      (a = some (.rd 0x12) → r = some 0x01)

/-- R112: a `RECV`, from its acceptance to its completion, is the same for every `TMOMULT`; so is every
other operation (R34). That a busy read of `TMOMULT` has the same free answer for both values is the
model's choice (logs 8, 22). -/
def Obligations.TimeoutMultiplierHasNoEffect : Prop :=
  ∀ (s t : State) (v : Byte), s.input.rst = false →
    (s.phase ≠ .idle ∨ ∃ c, s.input.access = some (.wr 0x11 c)) → step s = .next t →
    step { s with tmomult := v } = .next { t with tmomult := v }

/-! ### Commands -/

/-- R96: acceptance of `RECV`; while busy the command is ignored (R165), as an instruction too, which is
the model's reading (logs 7, 9). -/
def Obligations.RecvIsAccepted : Prop :=
  ∀ s : State,
    (s.phase = .idle → exec .recv s =
      .next { s with
        phase := .rxWait, tcnt := 0, trun := true, nbytes := 0, nbits := 0, shreg := 0x00 }) ∧
    (s.phase ≠ .idle → exec .recv s = .next s)

/-- R121, R178: the length check and acceptance of `XMIT`; while busy it is ignored (R165), as an
instruction too, which is the model's reading (logs 7, 9). The tagged result beside `RESULT` is the
model's own field (log 19). -/
def Obligations.XmitChecksLengthAndIsAccepted : Prop :=
  ∀ s : State,
    (s.phase = .idle → 12 < s.len.toNat → exec .xmit s =
      .next { s with result := 0x83, resultTag := some (.error .dataError) }) ∧
    (s.phase = .idle → s.len.toNat ≤ 12 → exec .xmit s =
      .next { s with phase := .txIdle, tcnt := 0, trun := true, nbytes := 0, nbits := 0 }) ∧
    (s.phase ≠ .idle → exec .xmit s = .next s)

/-- R150: `CRC` writes `CRCOUT` and nothing else; with `LEN > 12` or while busy it is ignored, the
effect the rule gives the hardware (log 7). -/
def Obligations.CrcStoresChecksumOfFrame : Prop :=
  ∀ s : State,
    (s.phase = .idle → s.len.toNat ≤ 12 → exec .crc s =
      .next { s with crcout := checksum ((List.range s.len.toNat).map s.fbByte) }) ∧
    (s.phase ≠ .idle ∨ 12 < s.len.toNat → exec .crc s = .next s)

/-- R67: a reserved command byte changes no state, as an instruction and as a step: the effect the rule
gives the hardware; that the model takes it and does not refuse is its choice (log 7). -/
def Obligations.ReservedCommandChangesNothing : Prop :=
  (∀ (v : Byte) (s : State), exec (.cmdReserved v) s = .next s) ∧
  ∀ (s : State) (v : Byte), v ≠ 0x01 → v ≠ 0x02 → v ≠ 0x03 → s.input.rst = false →
    s.phase = .idle → s.input.access = some (.wr 0x11 v) → step s = .next s.advance

/-! ### The checksum -/

/-- R146: the four cases of one register update. -/
def Obligations.CrcBitFourCases : Prop :=
  ∀ c : Byte,
    (c.msb = true → crcBit c true = (c <<< 1 ||| 0x01) ^^^ 0x01) ∧
    (c.msb = false → crcBit c true = (c <<< 1 ||| 0x01) ^^^ 0x1C) ∧
    (c.msb = true → crcBit c false = c <<< 1 ^^^ 0x1D) ∧
    (c.msb = false → crcBit c false = c <<< 1 ^^^ 0x00)

/-- R149: the four constants are the one polynomial 0x1D, bit-wise and byte-wise. -/
def Obligations.CrcIsPolynomialDivision : Prop :=
  (∀ (c : Byte) (b : Bool),
    crcBit c b = c <<< 1 ^^^ (if (c.msb ^^ b) = true then 0x1D else 0x00)) ∧
  ∀ c x : Byte, crcByte c x = Claims.polyStep^[8] (c ^^^ x)

/-- R151, R152: the checksum of nothing, and the constant residue of a message with its checksum. -/
def Obligations.ChecksumResidueIsConstant : Prop :=
  checksum [] = 0x00 ∧ ∀ m : List Byte, checksum (m ++ [checksum m]) = 0x3B

/-- R153: the `CRC` command's answer depends on `LEN` and the first `LEN` bytes alone. -/
def Obligations.CrcDependsOnFrameAlone : Prop :=
  ∀ s s' t t' : State, s.phase = .idle → s'.phase = .idle → s.len = s'.len → s.len.toNat ≤ 12 →
    (∀ i, i < s.len.toNat → s.fbByte i = s'.fbByte i) →
    exec .crc s = .next t → exec .crc s' = .next t' → t.crcout = t'.crcout

/-! ### Completions -/

/-- R97, R176, R180: the no-data completion, by its symbol and by its result code, whose meaning as
a completion is the model's choice (log 13). The tagged result beside `RESULT` is the model's own
field (log 19). -/
def Obligations.NoDataCompletes : Prop :=
  ∀ i ∈ [Instr.waitTimeout, .resNodata], ∀ s : State,
    exec i s = .next (Claims.completed 0x81 (.error .noData) s)

/-- R98, R100, R125, R177, R180: the bus-error completions; that the result code is one of them is
the model's choice (log 13). The tagged result beside `RESULT` is the model's own field (log 19). -/
def Obligations.BusErrorCompletes : Prop :=
  ∀ i ∈ [Instr.sofTooshort, .sofToolong, .pTooshort, .aTooshort, .resBuserror], ∀ s : State,
    exec i s = .next (Claims.completed 0x82 (.error .busError) s)

/-- R99, R104, R106, R180: end of data, on a run of either level, gives the number of whole bytes;
the partial byte is dropped and `FB` untouched. The tagged result beside `RESULT` is the model's own
field (log 19). -/
def Obligations.EndOfDataCompletes : Prop :=
  ∀ i ∈ [Instr.pHold, .aHold], ∀ s : State,
    exec i s = .next (Claims.completed (s.nbytes.setWidth 8) (.bytes s.nbytes.toNat) s)

/-- R68, R180: the success code; 0 is `Ok` in an `XMIT`. Its meaning as a completion is the model's
choice (log 13). The tagged result beside `RESULT` is the model's own field (log 19). -/
def Obligations.SuccessCodeCompletes : Prop :=
  ∀ (n : BitVec 7) (s : State),
    (n = 0 → s.phase.isTx = true → exec (.resOkOrBytes n) s =
      .next (Claims.completed 0x00 .ok s)) ∧
    (n ≠ 0 ∨ s.phase.isTx = false → exec (.resOkOrBytes n) s =
      .next (Claims.completed (n.setWidth 8) (.bytes n.toNat) s))

/-- R178: `DataError` writes `RESULT` and changes nothing else; its code as an instruction is the
model's choice (log 13). The tagged result beside `RESULT` is the model's own field (log 19). -/
def Obligations.DataErrorCodeCompletes : Prop :=
  ∀ s : State, exec .resDataerror s =
    .next { s with result := 0x83, resultTag := some (.error .dataError) }

/-! ### Receiver symbols -/

/-- R97, R98: activity starts the SOF measurement, an accepted SOF the first data pulse. That a
restart of the timer also sets `TRUN` is a deduction of the model (log 12). -/
def Obligations.ActivityAndSofAdvanceReceiver : Prop :=
  ∀ s : State,
    exec .waitActivity s = .next { s with phase := .rxSof, tcnt := 0, trun := true } ∧
    exec .sofOk s = .next { s with phase := .rxBit, ref := .passive, tcnt := 0, trun := true }

/-- R101: a data pulse shifts its bit in and restarts the timer; before the eighth bit nothing else
happens. That a restart of the timer also sets `TRUN` is a deduction of the model (log 12). -/
def Obligations.DataPulseShiftsBit : Prop :=
  ∀ (i : Instr) (b : Bool) (lv : Level) (s : State), Claims.symBit i = some (b, lv) →
    s.nbits.toNat < 7 → exec i s =
      .next { s with
        shreg := Claims.shifted s.shreg b, ref := lv, tcnt := 0, trun := true,
        nbits := s.nbits + 1 }

/-- R102: the eighth bit stores the whole byte at index `NBYTES`; every other byte of `FB` and every
register not named keep their values. That a restart of the timer also sets `TRUN` is a deduction of
the model (log 12). -/
def Obligations.EighthBitStoresByte : Prop :=
  ∀ (i : Instr) (b : Bool) (lv : Level) (s : State), Claims.symBit i = some (b, lv) →
    s.nbits.toNat = 7 → s.nbytes.toNat ≤ 10 → ∃ t, exec i s = .next t ∧
      t = { s with
        shreg := Claims.shifted s.shreg b, ref := lv, tcnt := 0, trun := true, nbits := 0,
        nbytes := s.nbytes + 1, fb := t.fb } ∧
      t.fbByte s.nbytes.toNat = Claims.shifted s.shreg b ∧
      ∀ j, j ≠ s.nbytes.toNat → t.fbByte j = s.fbByte j

/-- R103: the twelfth byte is stored and the operation completes with `Bytes(12)` in the same step.
The tagged result beside `RESULT` is the model's own field (log 19). -/
def Obligations.TwelfthByteCompletes : Prop :=
  ∀ (i : Instr) (b : Bool) (lv : Level) (s : State), Claims.symBit i = some (b, lv) →
    s.nbits.toNat = 7 → s.nbytes.toNat = 11 → ∃ t, exec i s = .next t ∧
      t = Claims.completed 0x0C (.bytes 12)
        { s with
          shreg := Claims.shifted s.shreg b, ref := lv, tcnt := 0, nbits := 0, nbytes := 12,
          fb := t.fb } ∧
      t.fbByte 11 = Claims.shifted s.shreg b ∧ ∀ j, j ≠ 11 → t.fbByte j = s.fbByte j

/-- R41: a byte store beyond `FB[11]`, which no run reaches, stops by name, the model's choice (log 17). -/
def Obligations.StoreBeyondBufferStops : Prop :=
  ∀ (i : Instr) (b : Bool) (lv : Level) (s : State), Claims.symBit i = some (b, lv) →
    s.nbits.toNat = 7 → 12 ≤ s.nbytes.toNat →
    exec i s = .fault (.bufferIndex s.nbytes.toNat)

/-- What every instruction leaves unchanged when it answers a next state. `LEN`, `TMOMULT`, `DUR`
and the model's own fields: always (R95, R120, R150). `CRCOUT`: but for `CRC` (R33). `DRV`: a
completion releases it, nothing else writes it (R24). `RESULT`: unless the instruction completes an
operation, is a rejected `XMIT` or is the `DataError` code (R32, `Claims.writesResult`). `TCNT`: but
for the commands that start an operation and the symbols that restart it. The phase and `TRUN`:
`CRC`, the reserved commands and `DataError` leave them (R67, R150, R178). What the clauses say of
the four result codes run as instructions (the release of `DRV`, the write of `RESULT`, the phase
and `TRUN`) rests on the model's choice of log 13, what they say of a symbol outside its phase on
log 16, and of a command that is ignored on logs 7 and 9. `FB`: every byte but the one a whole byte
is stored to (R46, R102). The tagged result beside `RESULT` is the model's own field (log 19). -/
def Obligations.InstructionsLeaveTheRest : Prop :=
  ∀ (i : Instr) (s t : State), exec i s = .next t →
    (t.len = s.len ∧ t.tmomult = s.tmomult ∧ t.dur = s.dur ∧ t.params = s.params ∧
      t.rdata = s.rdata ∧ t.inputs = s.inputs ∧ t.tick = s.tick ∧ t.fresh = s.fresh ∧
      t.epoch = s.epoch) ∧
    (i ≠ .crc → t.crcout = s.crcout) ∧
    t.drv = (if Claims.completes s i then .passive else s.drv) ∧
    (Claims.writesResult s i = false → t.result = s.result ∧ t.resultTag = s.resultTag) ∧
    (Claims.symBit i = none → i ≠ .recv → i ≠ .xmit → i ≠ .waitActivity → i ≠ .sofOk →
      t.tcnt = s.tcnt) ∧
    (i = .crc ∨ i = .resDataerror ∨ (∃ v, i = .cmdReserved v) →
      t.phase = s.phase ∧ t.trun = s.trun) ∧
    (∀ a, (s.nbits.toNat = 7 ∧ (Claims.symBit i).isSome → a ≠ s.nbytes.toNat) →
      t.fbByte a = s.fbByte a) ∧
    (Claims.symBit i = none → i ≠ .sofOk → t.ref = s.ref) ∧
    (Claims.symBit i = none → i ≠ .recv → t.shreg = s.shreg) ∧
    (Claims.symBit i = none → i ≠ .recv → i ≠ .xmit →
      t.nbits = s.nbits ∧ t.nbytes = s.nbytes)

/-! ### The receiver, tick by tick -/

/-- R97: the step of `RX_WAIT`. That a restart of the timer also sets `TRUN` is a deduction of the
model (log 12). The tagged result beside `RESULT` is the model's own field (log 19). -/
def Obligations.WaitPhaseStep : Prop :=
  ∀ s : State, s.input.rst = false → s.phase = .rxWait →
    (s.input.sample = .active →
      step s = .next { s.busyTick with phase := .rxSof, tcnt := 0, trun := true }) ∧
    (s.input.sample = .passive → s.params.tNoData ≤ s.nextTicks →
      step s = .next (Claims.completed 0x81 (.error .noData) s.busyTick)) ∧
    (s.input.sample = .passive → s.nextTicks < s.params.tNoData → step s = .next s.busyTick)

/-- R98: the step of `RX_SOF`. That a restart of the timer also sets `TRUN` is a deduction of the
model (log 12). The tagged result beside `RESULT` is the model's own field (log 19). -/
def Obligations.SofPhaseStep : Prop :=
  ∀ s : State, s.input.rst = false → s.phase = .rxSof →
    (s.input.sample = .active → s.params.rxSofMax ≤ s.nextTicks →
      step s = .next (Claims.completed 0x82 (.error .busError) s.busyTick)) ∧
    (s.input.sample = .active → s.nextTicks < s.params.rxSofMax →
      step s = .next s.busyTick) ∧
    (s.input.sample = .passive → s.nextTicks < s.params.rxSofMin →
      step s = .next (Claims.completed 0x82 (.error .busError) s.busyTick)) ∧
    (s.input.sample = .passive → s.params.rxSofMin ≤ s.nextTicks →
      step s = .next { s.busyTick with
        phase := .rxBit, ref := .passive, tcnt := 0, trun := true })

/-- R99, R100: the steps of `RX_BIT` that end or continue a run without taking a bit. The tagged
result beside `RESULT` is the model's own field (log 19). -/
def Obligations.BitPhaseEndsOrContinues : Prop :=
  ∀ s : State, s.input.rst = false → s.phase = .rxBit →
    (s.input.sample = s.ref → s.params.rxEodMin ≤ s.nextTicks →
      step s =
        .next (Claims.completed (s.nbytes.setWidth 8) (.bytes s.nbytes.toNat) s.busyTick)) ∧
    (s.input.sample = s.ref → s.nextTicks < s.params.rxEodMin → step s = .next s.busyTick) ∧
    (s.input.sample ≠ s.ref → s.nextTicks < s.params.rxShortMin →
      step s = .next (Claims.completed 0x82 (.error .busError) s.busyTick))

/-- R101, R58, R105: the step of `RX_BIT` that completes a pulse takes the bit of R58 for the level
and length of that pulse, whatever the windows; a pulse in neither window gives 0 and no error. That
a restart of the timer also sets `TRUN` is a deduction of the model (log 12). -/
def Obligations.BitPhaseTakesBitOfPulse : Prop :=
  ∀ s : State, s.input.rst = false → s.phase = .rxBit → s.input.sample ≠ s.ref →
    s.params.rxShortMin ≤ s.nextTicks → s.nbits.toNat < 7 →
    ∀ b : Bool,
      (b = true ↔
        (s.params.rxShortMin ≤ s.nextTicks ∧ s.nextTicks < s.params.rxShortMax ∧
          s.ref = .passive) ∨
        (s.params.rxLongMin < s.nextTicks ∧ s.nextTicks < s.params.rxLongMax ∧
          s.ref = .active)) →
      step s = .next { s.busyTick with
        shreg := Claims.shifted s.shreg b, ref := s.input.sample, tcnt := 0, trun := true,
        nbits := s.nbits + 1 }

/-- R102, R103, R46: the eighth bit in `RX_BIT` stores one whole byte and leaves every other byte; the
operation completes exactly when it is the twelfth. -/
def Obligations.BitPhaseStoresWholeBytes : Prop :=
  ∀ s : State, s.input.rst = false → s.phase = .rxBit → s.input.sample ≠ s.ref →
    s.params.rxShortMin ≤ s.nextTicks → s.nbits.toNat = 7 → s.nbytes.toNat ≤ 11 →
    ∃ t, step s = .next t ∧
      t.fbByte s.nbytes.toNat =
        Claims.shifted s.shreg (bitval s.params s.ref s.nextTicks) ∧
      (∀ j, j ≠ s.nbytes.toNat → t.fbByte j = s.fbByte j) ∧
      t.nbits = 0 ∧ t.nbytes.toNat = s.nbytes.toNat + 1 ∧ t.ref = s.input.sample ∧ t.tcnt = 0 ∧
      (s.nbytes.toNat < 11 → t.phase = .rxBit ∧ t.result = s.result) ∧
      (s.nbytes.toNat = 11 → t.phase = .idle ∧ t.result = 0x0C ∧ t.drv = .passive ∧
        t.trun = false)

/-- R95, R107, R46, R39 item 4: in every step of a `RECV` the host's registers keep their values, the
bus is not driven, and a byte of `FB` changes only by being counted. -/
def Obligations.ReceiveLeavesTheRest : Prop :=
  ∀ s t : State, s.input.rst = false → s.phase.isRx = true → step s = .next t →
    t.len = s.len ∧ t.crcout = s.crcout ∧ t.tmomult = s.tmomult ∧ t.dur = s.dur ∧
    (t.drv = s.drv ∨ t.drv = .passive) ∧
    (∀ j, t.fbByte j = s.fbByte j ∨
      (j = s.nbytes.toNat ∧ t.nbytes = s.nbytes + 1 ∧ s.nbits = 7))

/-! ### The transmitter, tick by tick -/

/-- R122: the step of `TX_IDLE`. That a restart of the timer also sets `TRUN` is a deduction of the
model (log 12). -/
def Obligations.IdleWaitStep : Prop :=
  ∀ s : State, s.input.rst = false → s.phase = .txIdle →
    (s.input.sample = .active → step s = .next { s.busyTick with tcnt := 0, trun := true }) ∧
    (s.input.sample = .passive → s.params.rxIfsMin ≤ s.nextTicks →
      step s = .next { s.busyTick with
        drv := .active, tcnt := 0, trun := true, phase := .txSof }) ∧
    (s.input.sample = .passive → s.nextTicks < s.params.rxIfsMin → step s = .next s.busyTick)

/-- R123, R125, R126, R180: the steps of `TX_SOF`, `TX_BIT` and `TX_EOF`; a collision in a passive
slot comes before the duration test. The tagged result beside `RESULT` is the model's own field (log
19). -/
def Obligations.TransmitPhaseSteps : Prop :=
  ∀ s : State, s.input.rst = false →
    (s.phase = .txSof →
      step s = if s.params.txSof ≤ s.nextTicks then nextSlot s.busyTick
        else .next s.busyTick) ∧
    (s.phase = .txBit →
      (s.drv = .passive → s.input.sample = .active →
        step s = .next (Claims.completed 0x82 (.error .busError) s.busyTick)) ∧
      (s.drv = .active ∨ s.input.sample = .passive →
        step s = if s.dur ≤ s.nextTicks then nextSlot s.busyTick else .next s.busyTick)) ∧
    (s.phase = .txEof →
      step s = if s.params.txEof ≤ s.nextTicks then
          .next (Claims.completed 0x00 .ok s.busyTick)
        else .next s.busyTick)

/-- R124, R59, R65, R71: `next_slot` starts the end of frame or the slot of the next bit. That a
restart of the timer also sets `TRUN` is a deduction of the model (log 12). A fetch above `FB[11]`,
which no run makes, is left out (log 17). -/
def Obligations.NextSlotSendsNextBit : Prop :=
  ∀ s : State,
    (s.nbytes.toNat = s.len.toNat → nextSlot s =
      .next { s with drv := .passive, tcnt := 0, trun := true, phase := .txEof }) ∧
    (s.nbytes.toNat ≠ s.len.toNat → (s.nbits = 0 → s.nbytes.toNat ≤ 11) →
      ∀ (v : Byte) (lv : Level) (d : Nat),
        v = (if s.nbits = 0 then s.fbByte s.nbytes.toNat else s.shreg) →
        lv = (if (7 - s.nbits.toNat) % 2 = 1 then .passive else .active) →
        d = (if lv = .passive ∧ v.getLsbD 7 = false ∨ lv = .active ∧ v.getLsbD 7 = true
          then s.params.txLong else s.params.txShort) →
        nextSlot s = .next { s with
          dur := d, drv := lv, tcnt := 0, trun := true, phase := .txBit, shreg := v <<< 1,
          nbits := if s.nbits = 7 then 0 else s.nbits + 1,
          nbytes := if s.nbits = 7 then s.nbytes + 1 else s.nbytes })

/-- R127: while the block drives, and in the end of frame, the sample does not matter. That an unspecified
read in the tick has the same free answer for both samples is the model's choice (logs 8, 22). -/
def Obligations.SampleIgnoredWhileDriving : Prop :=
  ∀ (s : State) (i : TickIn) (rest : List TickIn) (lv : Level), i.rst = false →
    (s.phase = .txSof ∨ s.phase = .txEof ∨ s.phase = .txBit ∧ s.drv = .active) →
    step { s with inputs := i :: rest } =
      step { s with inputs := { i with sample := lv } :: rest }

/-- R90, R125: with the premise `BusReadback` (log 2), an `XMIT` reports a collision only if another
node drives. The tagged result beside `RESULT` is the model's own field (log 19). -/
def Obligations.CollisionNeedsAnotherNode : Prop :=
  ∀ s t : State, s.input.rst = false → s.phase.isTx = true → s.BusReadback →
    step s = .next t → t.phase = .idle → t.resultTag = some (.error .busError) →
    s.input.others = .active ∧ s.drv = .passive

/-- R120, R135: in every step of an `XMIT` the buffer and the host's registers keep their values, and
`RESULT` until it completes. -/
def Obligations.TransmitLeavesTheRest : Prop :=
  ∀ s t : State, s.input.rst = false → s.phase.isTx = true → step s = .next t →
    t.len = s.len ∧ t.crcout = s.crcout ∧ t.tmomult = s.tmomult ∧ t.ref = s.ref ∧
    (∀ j, t.fbByte j = s.fbByte j) ∧ (t.phase ≠ .idle → t.result = s.result)

/-! ### Whole-machine rules -/

/-- The invariant holds right after reset (R39). -/
def Obligations.ResetMeetsInvariant : Prop := State.reset.Inv ∧ State.reset.TimerBounded

/-- R39: every step, reset included, keeps the invariant. -/
def Obligations.StepKeepsInvariant : Prop :=
  ∀ s t : State, s.Inv → step s = .next t → t.Inv

/-- From a state that meets the invariant the machine never stops: no fault, no refusal (R41, R81). -/
def Obligations.StepNeverStops : Prop := ∀ s : State, s.Inv → ∃ t, step s = .next t

/-- R85, R39 item 5: under WF1 the timer stays below the limit of its phase, so it never wraps. -/
def Obligations.TimerNeverWraps : Prop :=
  ∀ s t : State, s.params.WF1 → s.Inv → s.TimerBounded → step s = .next t →
    t.TimerBounded ∧ (s.phase ≠ .idle → s.nextTicks = s.tcnt + 1)

/-- R37: the parameters are the same for every step. -/
def Obligations.ParametersNeverChange : Prop :=
  ∀ s t : State, step s = .next t → t.params = s.params

/-- R110, R134: the only phase changes there are, besides reset. -/
def Obligations.PhaseChangesAreListed : Prop :=
  ∀ s t : State, s.input.rst = false → step s = .next t → t.phase ≠ s.phase →
    (s.phase, t.phase) ∈
      [(Phase.idle, Phase.rxWait), (.rxWait, .rxSof), (.rxWait, .idle), (.rxSof, .idle),
       (.rxSof, .rxBit), (.rxBit, .idle), (.idle, .txIdle), (.txIdle, .txSof),
       (.txSof, .txBit), (.txSof, .txEof), (.txBit, .idle), (.txBit, .txEof), (.txEof, .idle)]

/-- R24, R31 to R34: who may write each register, besides reset. `DRV` becomes active only from the
transmitter's phases, and passive only there or by a completion. -/
def Obligations.RegistersHaveNamedWriters : Prop :=
  ∀ s t : State, s.input.rst = false → step s = .next t →
    (t.len ≠ s.len → s.phase = .idle ∧ s.input.access = some (.wr 0x10 t.len)) ∧
    (t.tmomult ≠ s.tmomult → s.phase = .idle ∧ s.input.access = some (.wr 0x15 t.tmomult)) ∧
    (t.crcout ≠ s.crcout → s.phase = .idle ∧ s.input.access = some (.wr 0x11 0x03)) ∧
    (t.result ≠ s.result → t.phase = .idle ∧
      (s.phase ≠ .idle ∨ s.input.access = some (.wr 0x11 0x02) ∧ 12 < s.len.toNat)) ∧
    (s.drv = .passive → t.drv = .active →
      s.phase = .txIdle ∨ s.phase = .txSof ∨ s.phase = .txBit) ∧
    (s.drv = .active → t.drv = .passive →
      s.phase = .txSof ∨ s.phase = .txBit ∨ s.phase ≠ .idle ∧ t.phase = .idle)

/-! ### Runs -/

/-- R97, R212: on a silent bus `RECV` ends in `NoData` after exactly `T_NODATA` ticks, not before. -/
def Obligations.SilentBusGivesNoData : Prop :=
  ∀ (s : State) (ts : List TickIn), s.params.WF1 → s.phase = .rxWait → s.tcnt = 0 →
    s.Coming ts → (∀ t ∈ ts, t.sample = .passive) → ts.length = s.params.tNoData →
    (∀ k, k < s.params.tNoData → ∃ u : State,
      Host.Core.run core k s = .next u ∧ u.phase = .rxWait ∧ u.tcnt = k) ∧
    ∃ t : State, Host.Core.run core s.params.tNoData s = .next t ∧ t.phase = .idle ∧
      t.result = 0x81 ∧ ∀ j, t.fbByte j = s.fbByte j

/-- R109: under WF1 every `RECV` completes within the bound, whatever the bus carries. -/
def Obligations.ReceiveAlwaysCompletes : Prop :=
  ∀ (s : State) (ts : List TickIn), s.params.WF1 → s.Inv → s.TimerBounded →
    s.phase.isRx = true → s.Coming ts →
    ts.length = s.params.tNoData + s.params.rxSofMax + 96 * s.params.rxEodMin +
      s.params.rxEodMin →
    ∃ k t, k ≤ ts.length ∧ Host.Core.run core k s = .next t ∧ (t : State).phase = .idle

/-- R133, R205: an `XMIT` on a bus that is never idle long enough never leaves `TX_IDLE`. -/
def Obligations.BusyBusHoldsTransmitter : Prop :=
  ∀ (s : State) (ts : List TickIn), s.params.WF1 → s.phase = .txIdle →
    s.tcnt < s.params.rxIfsMin → s.Coming ts →
    Claims.neverIdle s.params.rxIfsMin s.tcnt (ts.map (·.sample)) = true →
    ∃ t : State, Host.Core.run core ts.length s = .next t ∧ t.phase = .txIdle ∧ t.drv = s.drv

/-- R131, R212: with no other node driving and `BusReadback`, an `XMIT` puts exactly the waveform of
R131 on the wire and completes with `Ok` after its last tick, not before. The tagged result beside
`RESULT` is the model's own field (log 19). -/
def Obligations.TransmitSendsWaveform : Prop :=
  ∀ (s : State) (n : Nat), s.params.WF1 → s.Inv → s.phase = .txIdle →
    s.tcnt < s.params.rxIfsMin →
    n = (Claims.xmitWave s.params s.tcnt (s.fbBytes s.len.toNat)).samples.length →
    Claims.quietBus n s = true →
    drvTrace n s = (Claims.xmitWave s.params s.tcnt (s.fbBytes s.len.toNat)).samples ∧
    (∀ k, k < n → ∃ u : State, Host.Core.run core k s = .next u ∧ u.phase.isTx = true) ∧
    ∃ t : State, Host.Core.run core n s = .next t ∧ t.phase = .idle ∧ t.result = 0x00 ∧
      t.resultTag = some .ok ∧ t.drv = .passive

/-- R136: what one block transmits, another with the same parameters receives; the two blocks are
two runs of one machine (log 20). The receiver's first sample comes while the transmitter waits for
idle or in the first tick of its SOF, the tick after the one that confirmed idle. What other nodes
do while the transmitter runs is left free, but it must complete. The tagged result beside `RESULT`
is the model's own field (log 19). -/
def Obligations.LoopbackReproducesFrame : Prop :=
  ∀ (x y : State) (n : Nat) (ts : List TickIn), x.params = y.params → x.params.WF1 →
    x.params.WF2 → x.params.WF3 → x.params.WF4 → x.params.WF5 → x.params.WF6 →
    x.params.WF7 → x.Inv → (x.phase = .txIdle ∨ x.phase = .txSof ∧ x.tcnt = 0) →
    1 ≤ x.len.toNat → Claims.sendsUntil n x →
    y.Inv → y.phase = .rxWait → y.tcnt = 0 →
    ((drvTrace n x).takeWhile (· == .passive)).length < y.params.tNoData →
    y.Coming ts → ts.map (·.sample) = drvTrace n x →
    ∃ k t, k ≤ n ∧ Host.Core.run core k y = .next t ∧ (t : State).phase = .idle ∧
      t.resultTag = some (.bytes x.len.toNat) ∧ t.result = x.len ∧
      ∀ i, i < x.len.toNat → t.fbByte i = x.fbByte i
end

