-- ==== Sys2Proof/Laws/State.lean ====
section
/-! SUPPORT. One lemma per field and state update, so that no proof unfolds a record update. -/

namespace Sys2Proof.Machine

/-- A host access while busy answers a read and changes nothing else (R164). -/
theorem accessWhileBusy_eq (a : Option Access) (s : State) :
    s.accessWhileBusy a = { s with rdata := (s.accessWhileBusy a).rdata } := by
  rcases a with _ | addr | _
  · rfl
  · simp only [State.accessWhileBusy]; split <;> rfl
  · rfl

/-- A host access under reset answers a read and changes nothing else (U15). -/
theorem accessUnderReset_eq (a : Option Access) (s : State) :
    s.accessUnderReset a = { s with rdata := (s.accessUnderReset a).rdata } := by
  rcases a with _ | _ | _ <;> rfl

@[simp] theorem timerStart_phase (s : State) : s.timerStart.phase = s.phase := rfl
@[simp] theorem timerStart_tcnt (s : State) : s.timerStart.tcnt = 0 := rfl
@[simp] theorem timerStart_trun (s : State) : s.timerStart.trun = true := rfl
@[simp] theorem timerStart_drv (s : State) : s.timerStart.drv = s.drv := rfl
@[simp] theorem timerStart_ref (s : State) : s.timerStart.ref = s.ref := rfl
@[simp] theorem timerStart_shreg (s : State) : s.timerStart.shreg = s.shreg := rfl
@[simp] theorem timerStart_nbits (s : State) : s.timerStart.nbits = s.nbits := rfl
@[simp] theorem timerStart_nbytes (s : State) : s.timerStart.nbytes = s.nbytes := rfl
@[simp] theorem timerStart_dur (s : State) : s.timerStart.dur = s.dur := rfl
@[simp] theorem timerStart_fb (s : State) : s.timerStart.fb = s.fb := rfl
@[simp] theorem timerStart_len (s : State) : s.timerStart.len = s.len := rfl
@[simp] theorem timerStart_result (s : State) : s.timerStart.result = s.result := rfl
@[simp] theorem timerStart_crcout (s : State) : s.timerStart.crcout = s.crcout := rfl
@[simp] theorem timerStart_tmomult (s : State) : s.timerStart.tmomult = s.tmomult := rfl
@[simp] theorem timerStart_resultTag (s : State) : s.timerStart.resultTag = s.resultTag := rfl
@[simp] theorem timerStart_params (s : State) : s.timerStart.params = s.params := rfl
@[simp] theorem timerStart_rdata (s : State) : s.timerStart.rdata = s.rdata := rfl
@[simp] theorem timerStart_inputs (s : State) : s.timerStart.inputs = s.inputs := rfl
@[simp] theorem timerStart_tick (s : State) : s.timerStart.tick = s.tick := rfl
@[simp] theorem timerStart_fresh (s : State) : s.timerStart.fresh = s.fresh := rfl
@[simp] theorem timerStart_epoch (s : State) : s.timerStart.epoch = s.epoch := rfl

@[simp] theorem timerStop_phase (s : State) : s.timerStop.phase = s.phase := rfl
@[simp] theorem timerStop_tcnt (s : State) : s.timerStop.tcnt = s.tcnt := rfl
@[simp] theorem timerStop_trun (s : State) : s.timerStop.trun = false := rfl
@[simp] theorem timerStop_drv (s : State) : s.timerStop.drv = s.drv := rfl
@[simp] theorem timerStop_ref (s : State) : s.timerStop.ref = s.ref := rfl
@[simp] theorem timerStop_shreg (s : State) : s.timerStop.shreg = s.shreg := rfl
@[simp] theorem timerStop_nbits (s : State) : s.timerStop.nbits = s.nbits := rfl
@[simp] theorem timerStop_nbytes (s : State) : s.timerStop.nbytes = s.nbytes := rfl
@[simp] theorem timerStop_dur (s : State) : s.timerStop.dur = s.dur := rfl
@[simp] theorem timerStop_fb (s : State) : s.timerStop.fb = s.fb := rfl
@[simp] theorem timerStop_len (s : State) : s.timerStop.len = s.len := rfl
@[simp] theorem timerStop_result (s : State) : s.timerStop.result = s.result := rfl
@[simp] theorem timerStop_crcout (s : State) : s.timerStop.crcout = s.crcout := rfl
@[simp] theorem timerStop_tmomult (s : State) : s.timerStop.tmomult = s.tmomult := rfl
@[simp] theorem timerStop_resultTag (s : State) : s.timerStop.resultTag = s.resultTag := rfl
@[simp] theorem timerStop_params (s : State) : s.timerStop.params = s.params := rfl
@[simp] theorem timerStop_rdata (s : State) : s.timerStop.rdata = s.rdata := rfl
@[simp] theorem timerStop_inputs (s : State) : s.timerStop.inputs = s.inputs := rfl
@[simp] theorem timerStop_tick (s : State) : s.timerStop.tick = s.tick := rfl
@[simp] theorem timerStop_fresh (s : State) : s.timerStop.fresh = s.fresh := rfl
@[simp] theorem timerStop_epoch (s : State) : s.timerStop.epoch = s.epoch := rfl

@[simp] theorem driveActive_phase (s : State) : s.driveActive.phase = s.phase := rfl
@[simp] theorem driveActive_tcnt (s : State) : s.driveActive.tcnt = s.tcnt := rfl
@[simp] theorem driveActive_trun (s : State) : s.driveActive.trun = s.trun := rfl
@[simp] theorem driveActive_drv (s : State) : s.driveActive.drv = .active := rfl
@[simp] theorem driveActive_ref (s : State) : s.driveActive.ref = s.ref := rfl
@[simp] theorem driveActive_shreg (s : State) : s.driveActive.shreg = s.shreg := rfl
@[simp] theorem driveActive_nbits (s : State) : s.driveActive.nbits = s.nbits := rfl
@[simp] theorem driveActive_nbytes (s : State) : s.driveActive.nbytes = s.nbytes := rfl
@[simp] theorem driveActive_dur (s : State) : s.driveActive.dur = s.dur := rfl
@[simp] theorem driveActive_fb (s : State) : s.driveActive.fb = s.fb := rfl
@[simp] theorem driveActive_len (s : State) : s.driveActive.len = s.len := rfl
@[simp] theorem driveActive_result (s : State) : s.driveActive.result = s.result := rfl
@[simp] theorem driveActive_crcout (s : State) : s.driveActive.crcout = s.crcout := rfl
@[simp] theorem driveActive_tmomult (s : State) : s.driveActive.tmomult = s.tmomult := rfl
@[simp] theorem driveActive_resultTag (s : State) : s.driveActive.resultTag = s.resultTag := rfl
@[simp] theorem driveActive_params (s : State) : s.driveActive.params = s.params := rfl
@[simp] theorem driveActive_rdata (s : State) : s.driveActive.rdata = s.rdata := rfl
@[simp] theorem driveActive_inputs (s : State) : s.driveActive.inputs = s.inputs := rfl
@[simp] theorem driveActive_tick (s : State) : s.driveActive.tick = s.tick := rfl
@[simp] theorem driveActive_fresh (s : State) : s.driveActive.fresh = s.fresh := rfl
@[simp] theorem driveActive_epoch (s : State) : s.driveActive.epoch = s.epoch := rfl

@[simp] theorem drivePassive_phase (s : State) : s.drivePassive.phase = s.phase := rfl
@[simp] theorem drivePassive_tcnt (s : State) : s.drivePassive.tcnt = s.tcnt := rfl
@[simp] theorem drivePassive_trun (s : State) : s.drivePassive.trun = s.trun := rfl
@[simp] theorem drivePassive_drv (s : State) : s.drivePassive.drv = .passive := rfl
@[simp] theorem drivePassive_ref (s : State) : s.drivePassive.ref = s.ref := rfl
@[simp] theorem drivePassive_shreg (s : State) : s.drivePassive.shreg = s.shreg := rfl
@[simp] theorem drivePassive_nbits (s : State) : s.drivePassive.nbits = s.nbits := rfl
@[simp] theorem drivePassive_nbytes (s : State) : s.drivePassive.nbytes = s.nbytes := rfl
@[simp] theorem drivePassive_dur (s : State) : s.drivePassive.dur = s.dur := rfl
@[simp] theorem drivePassive_fb (s : State) : s.drivePassive.fb = s.fb := rfl
@[simp] theorem drivePassive_len (s : State) : s.drivePassive.len = s.len := rfl
@[simp] theorem drivePassive_result (s : State) : s.drivePassive.result = s.result := rfl
@[simp] theorem drivePassive_crcout (s : State) : s.drivePassive.crcout = s.crcout := rfl
@[simp] theorem drivePassive_tmomult (s : State) : s.drivePassive.tmomult = s.tmomult := rfl
@[simp] theorem drivePassive_resultTag (s : State) : s.drivePassive.resultTag = s.resultTag := rfl
@[simp] theorem drivePassive_params (s : State) : s.drivePassive.params = s.params := rfl
@[simp] theorem drivePassive_rdata (s : State) : s.drivePassive.rdata = s.rdata := rfl
@[simp] theorem drivePassive_inputs (s : State) : s.drivePassive.inputs = s.inputs := rfl
@[simp] theorem drivePassive_tick (s : State) : s.drivePassive.tick = s.tick := rfl
@[simp] theorem drivePassive_fresh (s : State) : s.drivePassive.fresh = s.fresh := rfl
@[simp] theorem drivePassive_epoch (s : State) : s.drivePassive.epoch = s.epoch := rfl

@[simp] theorem setResult_phase (r : Result) (s : State) : (s.setResult r).phase = s.phase := rfl
@[simp] theorem setResult_tcnt (r : Result) (s : State) : (s.setResult r).tcnt = s.tcnt := rfl
@[simp] theorem setResult_trun (r : Result) (s : State) : (s.setResult r).trun = s.trun := rfl
@[simp] theorem setResult_drv (r : Result) (s : State) : (s.setResult r).drv = s.drv := rfl
@[simp] theorem setResult_ref (r : Result) (s : State) : (s.setResult r).ref = s.ref := rfl
@[simp] theorem setResult_shreg (r : Result) (s : State) : (s.setResult r).shreg = s.shreg := rfl
@[simp] theorem setResult_nbits (r : Result) (s : State) : (s.setResult r).nbits = s.nbits := rfl
@[simp] theorem setResult_nbytes (r : Result) (s : State) : (s.setResult r).nbytes = s.nbytes := rfl
@[simp] theorem setResult_dur (r : Result) (s : State) : (s.setResult r).dur = s.dur := rfl
@[simp] theorem setResult_fb (r : Result) (s : State) : (s.setResult r).fb = s.fb := rfl
@[simp] theorem setResult_len (r : Result) (s : State) : (s.setResult r).len = s.len := rfl
@[simp] theorem setResult_result (r : Result) (s : State) : (s.setResult r).result = enc r := rfl
@[simp] theorem setResult_crcout (r : Result) (s : State) : (s.setResult r).crcout = s.crcout := rfl
@[simp] theorem setResult_tmomult (r : Result) (s : State) : (s.setResult r).tmomult = s.tmomult := rfl
@[simp] theorem setResult_resultTag (r : Result) (s : State) : (s.setResult r).resultTag = some r := rfl
@[simp] theorem setResult_params (r : Result) (s : State) : (s.setResult r).params = s.params := rfl
@[simp] theorem setResult_rdata (r : Result) (s : State) : (s.setResult r).rdata = s.rdata := rfl
@[simp] theorem setResult_inputs (r : Result) (s : State) : (s.setResult r).inputs = s.inputs := rfl
@[simp] theorem setResult_tick (r : Result) (s : State) : (s.setResult r).tick = s.tick := rfl
@[simp] theorem setResult_fresh (r : Result) (s : State) : (s.setResult r).fresh = s.fresh := rfl
@[simp] theorem setResult_epoch (r : Result) (s : State) : (s.setResult r).epoch = s.epoch := rfl

@[simp] theorem finish_phase (r : Result) (s : State) : (finish r s).phase = .idle := rfl
@[simp] theorem finish_tcnt (r : Result) (s : State) : (finish r s).tcnt = s.tcnt := rfl
@[simp] theorem finish_trun (r : Result) (s : State) : (finish r s).trun = false := rfl
@[simp] theorem finish_drv (r : Result) (s : State) : (finish r s).drv = .passive := rfl
@[simp] theorem finish_ref (r : Result) (s : State) : (finish r s).ref = s.ref := rfl
@[simp] theorem finish_shreg (r : Result) (s : State) : (finish r s).shreg = s.shreg := rfl
@[simp] theorem finish_nbits (r : Result) (s : State) : (finish r s).nbits = s.nbits := rfl
@[simp] theorem finish_nbytes (r : Result) (s : State) : (finish r s).nbytes = s.nbytes := rfl
@[simp] theorem finish_dur (r : Result) (s : State) : (finish r s).dur = s.dur := rfl
@[simp] theorem finish_fb (r : Result) (s : State) : (finish r s).fb = s.fb := rfl
@[simp] theorem finish_len (r : Result) (s : State) : (finish r s).len = s.len := rfl
@[simp] theorem finish_result (r : Result) (s : State) : (finish r s).result = enc r := rfl
@[simp] theorem finish_crcout (r : Result) (s : State) : (finish r s).crcout = s.crcout := rfl
@[simp] theorem finish_tmomult (r : Result) (s : State) : (finish r s).tmomult = s.tmomult := rfl
@[simp] theorem finish_resultTag (r : Result) (s : State) : (finish r s).resultTag = some r := rfl
@[simp] theorem finish_params (r : Result) (s : State) : (finish r s).params = s.params := rfl
@[simp] theorem finish_rdata (r : Result) (s : State) : (finish r s).rdata = s.rdata := rfl
@[simp] theorem finish_inputs (r : Result) (s : State) : (finish r s).inputs = s.inputs := rfl
@[simp] theorem finish_tick (r : Result) (s : State) : (finish r s).tick = s.tick := rfl
@[simp] theorem finish_fresh (r : Result) (s : State) : (finish r s).fresh = s.fresh := rfl
@[simp] theorem finish_epoch (r : Result) (s : State) : (finish r s).epoch = s.epoch := rfl

@[simp] theorem advance_phase (s : State) : s.advance.phase = s.phase := rfl
@[simp] theorem advance_tcnt (s : State) : s.advance.tcnt = s.tcnt := rfl
@[simp] theorem advance_trun (s : State) : s.advance.trun = s.trun := rfl
@[simp] theorem advance_drv (s : State) : s.advance.drv = s.drv := rfl
@[simp] theorem advance_ref (s : State) : s.advance.ref = s.ref := rfl
@[simp] theorem advance_shreg (s : State) : s.advance.shreg = s.shreg := rfl
@[simp] theorem advance_nbits (s : State) : s.advance.nbits = s.nbits := rfl
@[simp] theorem advance_nbytes (s : State) : s.advance.nbytes = s.nbytes := rfl
@[simp] theorem advance_dur (s : State) : s.advance.dur = s.dur := rfl
@[simp] theorem advance_fb (s : State) : s.advance.fb = s.fb := rfl
@[simp] theorem advance_len (s : State) : s.advance.len = s.len := rfl
@[simp] theorem advance_result (s : State) : s.advance.result = s.result := rfl
@[simp] theorem advance_crcout (s : State) : s.advance.crcout = s.crcout := rfl
@[simp] theorem advance_tmomult (s : State) : s.advance.tmomult = s.tmomult := rfl
@[simp] theorem advance_resultTag (s : State) : s.advance.resultTag = s.resultTag := rfl
@[simp] theorem advance_params (s : State) : s.advance.params = s.params := rfl
@[simp] theorem advance_rdata (s : State) : s.advance.rdata = none := rfl
@[simp] theorem advance_inputs (s : State) : s.advance.inputs = s.inputs.tail := rfl
@[simp] theorem advance_tick (s : State) : s.advance.tick = s.tick + 1 := rfl
@[simp] theorem advance_fresh (s : State) : s.advance.fresh = s.fresh + 1 := rfl
@[simp] theorem advance_epoch (s : State) : s.advance.epoch = s.epoch := rfl

@[simp] theorem accessWhileBusy_phase (a : Option Access) (s : State) : (s.accessWhileBusy a).phase = s.phase := by rw [accessWhileBusy_eq]
@[simp] theorem accessWhileBusy_tcnt (a : Option Access) (s : State) : (s.accessWhileBusy a).tcnt = s.tcnt := by rw [accessWhileBusy_eq]
@[simp] theorem accessWhileBusy_trun (a : Option Access) (s : State) : (s.accessWhileBusy a).trun = s.trun := by rw [accessWhileBusy_eq]
@[simp] theorem accessWhileBusy_drv (a : Option Access) (s : State) : (s.accessWhileBusy a).drv = s.drv := by rw [accessWhileBusy_eq]
@[simp] theorem accessWhileBusy_ref (a : Option Access) (s : State) : (s.accessWhileBusy a).ref = s.ref := by rw [accessWhileBusy_eq]
@[simp] theorem accessWhileBusy_shreg (a : Option Access) (s : State) : (s.accessWhileBusy a).shreg = s.shreg := by rw [accessWhileBusy_eq]
@[simp] theorem accessWhileBusy_nbits (a : Option Access) (s : State) : (s.accessWhileBusy a).nbits = s.nbits := by rw [accessWhileBusy_eq]
@[simp] theorem accessWhileBusy_nbytes (a : Option Access) (s : State) : (s.accessWhileBusy a).nbytes = s.nbytes := by rw [accessWhileBusy_eq]
@[simp] theorem accessWhileBusy_dur (a : Option Access) (s : State) : (s.accessWhileBusy a).dur = s.dur := by rw [accessWhileBusy_eq]
@[simp] theorem accessWhileBusy_fb (a : Option Access) (s : State) : (s.accessWhileBusy a).fb = s.fb := by rw [accessWhileBusy_eq]
@[simp] theorem accessWhileBusy_len (a : Option Access) (s : State) : (s.accessWhileBusy a).len = s.len := by rw [accessWhileBusy_eq]
@[simp] theorem accessWhileBusy_result (a : Option Access) (s : State) : (s.accessWhileBusy a).result = s.result := by rw [accessWhileBusy_eq]
@[simp] theorem accessWhileBusy_crcout (a : Option Access) (s : State) : (s.accessWhileBusy a).crcout = s.crcout := by rw [accessWhileBusy_eq]
@[simp] theorem accessWhileBusy_tmomult (a : Option Access) (s : State) : (s.accessWhileBusy a).tmomult = s.tmomult := by rw [accessWhileBusy_eq]
@[simp] theorem accessWhileBusy_resultTag (a : Option Access) (s : State) : (s.accessWhileBusy a).resultTag = s.resultTag := by rw [accessWhileBusy_eq]
@[simp] theorem accessWhileBusy_params (a : Option Access) (s : State) : (s.accessWhileBusy a).params = s.params := by rw [accessWhileBusy_eq]
@[simp] theorem accessWhileBusy_inputs (a : Option Access) (s : State) : (s.accessWhileBusy a).inputs = s.inputs := by rw [accessWhileBusy_eq]
@[simp] theorem accessWhileBusy_tick (a : Option Access) (s : State) : (s.accessWhileBusy a).tick = s.tick := by rw [accessWhileBusy_eq]
@[simp] theorem accessWhileBusy_fresh (a : Option Access) (s : State) : (s.accessWhileBusy a).fresh = s.fresh := by rw [accessWhileBusy_eq]
@[simp] theorem accessWhileBusy_epoch (a : Option Access) (s : State) : (s.accessWhileBusy a).epoch = s.epoch := by rw [accessWhileBusy_eq]

@[simp] theorem accessUnderReset_phase (a : Option Access) (s : State) : (s.accessUnderReset a).phase = s.phase := by rw [accessUnderReset_eq]
@[simp] theorem accessUnderReset_tcnt (a : Option Access) (s : State) : (s.accessUnderReset a).tcnt = s.tcnt := by rw [accessUnderReset_eq]
@[simp] theorem accessUnderReset_trun (a : Option Access) (s : State) : (s.accessUnderReset a).trun = s.trun := by rw [accessUnderReset_eq]
@[simp] theorem accessUnderReset_drv (a : Option Access) (s : State) : (s.accessUnderReset a).drv = s.drv := by rw [accessUnderReset_eq]
@[simp] theorem accessUnderReset_ref (a : Option Access) (s : State) : (s.accessUnderReset a).ref = s.ref := by rw [accessUnderReset_eq]
@[simp] theorem accessUnderReset_shreg (a : Option Access) (s : State) : (s.accessUnderReset a).shreg = s.shreg := by rw [accessUnderReset_eq]
@[simp] theorem accessUnderReset_nbits (a : Option Access) (s : State) : (s.accessUnderReset a).nbits = s.nbits := by rw [accessUnderReset_eq]
@[simp] theorem accessUnderReset_nbytes (a : Option Access) (s : State) : (s.accessUnderReset a).nbytes = s.nbytes := by rw [accessUnderReset_eq]
@[simp] theorem accessUnderReset_dur (a : Option Access) (s : State) : (s.accessUnderReset a).dur = s.dur := by rw [accessUnderReset_eq]
@[simp] theorem accessUnderReset_fb (a : Option Access) (s : State) : (s.accessUnderReset a).fb = s.fb := by rw [accessUnderReset_eq]
@[simp] theorem accessUnderReset_len (a : Option Access) (s : State) : (s.accessUnderReset a).len = s.len := by rw [accessUnderReset_eq]
@[simp] theorem accessUnderReset_result (a : Option Access) (s : State) : (s.accessUnderReset a).result = s.result := by rw [accessUnderReset_eq]
@[simp] theorem accessUnderReset_crcout (a : Option Access) (s : State) : (s.accessUnderReset a).crcout = s.crcout := by rw [accessUnderReset_eq]
@[simp] theorem accessUnderReset_tmomult (a : Option Access) (s : State) : (s.accessUnderReset a).tmomult = s.tmomult := by rw [accessUnderReset_eq]
@[simp] theorem accessUnderReset_resultTag (a : Option Access) (s : State) : (s.accessUnderReset a).resultTag = s.resultTag := by rw [accessUnderReset_eq]
@[simp] theorem accessUnderReset_params (a : Option Access) (s : State) : (s.accessUnderReset a).params = s.params := by rw [accessUnderReset_eq]
@[simp] theorem accessUnderReset_inputs (a : Option Access) (s : State) : (s.accessUnderReset a).inputs = s.inputs := by rw [accessUnderReset_eq]
@[simp] theorem accessUnderReset_tick (a : Option Access) (s : State) : (s.accessUnderReset a).tick = s.tick := by rw [accessUnderReset_eq]
@[simp] theorem accessUnderReset_fresh (a : Option Access) (s : State) : (s.accessUnderReset a).fresh = s.fresh := by rw [accessUnderReset_eq]
@[simp] theorem accessUnderReset_epoch (a : Option Access) (s : State) : (s.accessUnderReset a).epoch = s.epoch := by rw [accessUnderReset_eq]

@[simp] theorem busyTick_phase (s : State) : s.busyTick.phase = s.phase := by simp [State.busyTick]
@[simp] theorem busyTick_tcnt (s : State) : s.busyTick.tcnt = s.nextTicks := rfl
@[simp] theorem busyTick_trun (s : State) : s.busyTick.trun = s.trun := by simp [State.busyTick]
@[simp] theorem busyTick_drv (s : State) : s.busyTick.drv = s.drv := by simp [State.busyTick]
@[simp] theorem busyTick_ref (s : State) : s.busyTick.ref = s.ref := by simp [State.busyTick]
@[simp] theorem busyTick_shreg (s : State) : s.busyTick.shreg = s.shreg := by simp [State.busyTick]
@[simp] theorem busyTick_nbits (s : State) : s.busyTick.nbits = s.nbits := by simp [State.busyTick]
@[simp] theorem busyTick_nbytes (s : State) : s.busyTick.nbytes = s.nbytes := by simp [State.busyTick]
@[simp] theorem busyTick_dur (s : State) : s.busyTick.dur = s.dur := by simp [State.busyTick]
@[simp] theorem busyTick_fb (s : State) : s.busyTick.fb = s.fb := by simp [State.busyTick]
@[simp] theorem busyTick_len (s : State) : s.busyTick.len = s.len := by simp [State.busyTick]
@[simp] theorem busyTick_result (s : State) : s.busyTick.result = s.result := by simp [State.busyTick]
@[simp] theorem busyTick_crcout (s : State) : s.busyTick.crcout = s.crcout := by simp [State.busyTick]
@[simp] theorem busyTick_tmomult (s : State) : s.busyTick.tmomult = s.tmomult := by simp [State.busyTick]
@[simp] theorem busyTick_resultTag (s : State) : s.busyTick.resultTag = s.resultTag := by simp [State.busyTick]
@[simp] theorem busyTick_params (s : State) : s.busyTick.params = s.params := by simp [State.busyTick]
@[simp] theorem busyTick_inputs (s : State) : s.busyTick.inputs = s.inputs.tail := by simp [State.busyTick]
@[simp] theorem busyTick_tick (s : State) : s.busyTick.tick = s.tick + 1 := by simp [State.busyTick]
@[simp] theorem busyTick_fresh (s : State) : s.busyTick.fresh = s.fresh + 1 := by simp [State.busyTick]
@[simp] theorem busyTick_epoch (s : State) : s.busyTick.epoch = s.epoch := by simp [State.busyTick]

@[simp] theorem startSlot_phase (v : Byte) (s : State) : (startSlot v s).phase = .txBit := rfl
@[simp] theorem startSlot_tcnt (v : Byte) (s : State) : (startSlot v s).tcnt = 0 := rfl
@[simp] theorem startSlot_trun (v : Byte) (s : State) : (startSlot v s).trun = true := rfl
@[simp] theorem startSlot_drv (v : Byte) (s : State) : (startSlot v s).drv = slotLevel (slotPosition s) := rfl
@[simp] theorem startSlot_ref (v : Byte) (s : State) : (startSlot v s).ref = s.ref := rfl
@[simp] theorem startSlot_shreg (v : Byte) (s : State) : (startSlot v s).shreg = shiftOut v := rfl
@[simp] theorem startSlot_nbits (v : Byte) (s : State) : (startSlot v s).nbits = s.nbits + 1 := rfl
@[simp] theorem startSlot_nbytes (v : Byte) (s : State) : (startSlot v s).nbytes = if s.nbits = 7 then s.nbytes + 1 else s.nbytes := rfl
@[simp] theorem startSlot_dur (v : Byte) (s : State) : (startSlot v s).dur = txdur s.params (slotLevel (slotPosition s)) v.msb := rfl
@[simp] theorem startSlot_fb (v : Byte) (s : State) : (startSlot v s).fb = s.fb := rfl
@[simp] theorem startSlot_len (v : Byte) (s : State) : (startSlot v s).len = s.len := rfl
@[simp] theorem startSlot_result (v : Byte) (s : State) : (startSlot v s).result = s.result := rfl
@[simp] theorem startSlot_crcout (v : Byte) (s : State) : (startSlot v s).crcout = s.crcout := rfl
@[simp] theorem startSlot_tmomult (v : Byte) (s : State) : (startSlot v s).tmomult = s.tmomult := rfl
@[simp] theorem startSlot_resultTag (v : Byte) (s : State) : (startSlot v s).resultTag = s.resultTag := rfl
@[simp] theorem startSlot_params (v : Byte) (s : State) : (startSlot v s).params = s.params := rfl
@[simp] theorem startSlot_rdata (v : Byte) (s : State) : (startSlot v s).rdata = s.rdata := rfl
@[simp] theorem startSlot_inputs (v : Byte) (s : State) : (startSlot v s).inputs = s.inputs := rfl
@[simp] theorem startSlot_tick (v : Byte) (s : State) : (startSlot v s).tick = s.tick := rfl
@[simp] theorem startSlot_fresh (v : Byte) (s : State) : (startSlot v s).fresh = s.fresh := rfl
@[simp] theorem startSlot_epoch (v : Byte) (s : State) : (startSlot v s).epoch = s.epoch := rfl

/-- The state a busy tick hands to its rule has the tick's input used up and `now` in `TCNT`; only the
read answer depends on the host. -/
theorem busyTick_eq (s : State) :
    s.busyTick = { s.advance with rdata := s.busyTick.rdata, tcnt := s.nextTicks } := by
  unfold State.busyTick; rw [accessWhileBusy_eq]

end Sys2Proof.Machine
end

