-- ==== Sys2Proof/Laws/Memory.lean ====
section
/-! SUPPORT. The frame buffer: read after write, writes leave other bytes alone, and every operation
keeps the canonical form. -/

namespace Sys2Proof.Machine

namespace Memory

@[simp] theorem get_nil (i : Nat) : Memory.get [] i = none := rfl

@[simp] theorem get_set_self (m : Memory) (i : Nat) (v : Byte) : (Memory.set m i v).get i = some v := by
  induction m with
  | nil => simp [Memory.set, Memory.get]
  | cons c rest ih =>
    obtain ⟨a, w⟩ := c
    simp only [Memory.set]
    split
    · simp [Memory.get]
    · split
      · simp [Memory.get]
      · have : a ≠ i := fun h => ‹¬i = a› h.symm
        simp [Memory.get, this, ih]

theorem get_set_other (m : Memory) (i j : Nat) (v : Byte) (h : j ≠ i) :
    (Memory.set m i v).get j = Memory.get m j := by
  induction m with
  | nil => simp [Memory.set, Memory.get, h.symm]
  | cons c rest ih =>
    obtain ⟨a, w⟩ := c
    simp only [Memory.set]
    split
    · simp [Memory.get, h.symm]
    · split
      · subst i; simp [Memory.get, h.symm]
      · simp [Memory.get, ih]

/-- The head of a memory after a write is the written cell or the old head. -/
theorem set_head (m : Memory) (i : Nat) (v : Byte) :
    (Memory.set m i v).head? = some (i, v) ∨
      ∃ a w, m.head? = some (a, w) ∧ a < i ∧ (Memory.set m i v).head? = some (a, w) := by
  rcases m with _ | ⟨⟨a, w⟩, rest⟩
  · simp [Memory.set]
  · simp only [Memory.set]
    split
    · simp
    · split
      · simp
      · exact .inr ⟨a, w, rfl, by omega, rfl⟩

theorem rising_cons (a : Nat) (w : Byte) (m : Memory) :
    Memory.rising ((a, w) :: m) = true ↔
      (∀ b v, m.head? = some (b, v) → a < b) ∧ Memory.rising m = true := by
  rcases m with _ | ⟨⟨b, v⟩, rest⟩
  · simp [Memory.rising]
  · simp [Memory.rising]

theorem rising_set (m : Memory) (i : Nat) (v : Byte) (h : Memory.rising m = true) :
    Memory.rising (Memory.set m i v) = true := by
  induction m with
  | nil => rfl
  | cons c rest ih =>
    obtain ⟨a, w⟩ := c
    have hr := (rising_cons a w rest).1 h
    simp only [Memory.set]
    split
    · exact (rising_cons ..).2 ⟨by simp_all, h⟩
    · split
      · subst i; exact (rising_cons ..).2 hr
      · refine (rising_cons ..).2 ⟨fun b u hb => ?_, ih hr.2⟩
        rcases set_head rest i v with h1 | ⟨a', w', h1, h2, h3⟩
        · simp_all; omega
        · exact hr.1 b u (by simp_all)

theorem all_set (p : Host.Cell → Bool) (m : Memory) (i : Nat) (v : Byte) (h : m.all p = true)
    (hp : p (i, v) = true) : (Memory.set m i v).all p = true := by
  induction m with
  | nil => simp [Memory.set, hp]
  | cons c rest ih =>
    obtain ⟨a, w⟩ := c
    simp only [List.all_cons, Bool.and_eq_true] at h
    simp only [Memory.set]
    split
    · simp [hp, h]
    · split <;> simp [hp, h, ih]

/-- A write in range keeps the canonical form. -/
theorem wf_set (m : Memory) (i : Nat) (v : Byte) (h : Memory.wf m = true) (hi : i < maxFrame) :
    Memory.wf (Memory.set m i v) = true := by
  simp only [Memory.wf, Bool.and_eq_true] at h ⊢
  exact ⟨rising_set m i v h.1, all_set _ m i v h.2 (by simpa using hi)⟩

/-- Reset memory lists nothing and is in canonical form. -/
theorem wf_nil : Memory.wf [] = true := rfl

/-- Canonical memories that read alike everywhere are equal. -/
theorem ext_of_get (m n : Memory) (hm : Memory.rising m = true) (hn : Memory.rising n = true)
    (h : ∀ i, Memory.get m i = Memory.get n i) : m = n := by
  have below : ∀ (m : Memory) (a : Nat), Memory.rising m = true →
      (∀ b v, m.head? = some (b, v) → a < b) → Memory.get m a = none := by
    intro m
    induction m with
    | nil => intros; rfl
    | cons c rest ih =>
      intro a hr hh
      obtain ⟨b, v⟩ := c
      have hb : a < b := hh b v rfl
      have hr' := (rising_cons b v rest).1 hr
      have : b ≠ a := by omega
      simp only [Memory.get, this, if_false]
      exact ih a hr'.2 fun b' v' e => lt_trans hb (hr'.1 b' v' e)
  induction m generalizing n with
  | nil =>
    rcases n with _ | ⟨⟨b, v⟩, rest⟩
    · rfl
    · simpa [Memory.get] using h b
  | cons c rest ih =>
    obtain ⟨a, w⟩ := c
    have hr := (rising_cons a w rest).1 hm
    rcases n with _ | ⟨⟨b, v⟩, rest'⟩
    · simpa [Memory.get] using h a
    · have hr' := (rising_cons b v rest').1 hn
      have hab : a = b := by
        rcases Nat.lt_trichotomy a b with hlt | heq | hgt
        · have := below ((b, v) :: rest') a hn (by simp; omega)
          rw [← h a] at this; simp [Memory.get] at this
        · exact heq
        · have := below ((a, w) :: rest) b hm (by simp; omega)
          rw [h b] at this; simp [Memory.get] at this
      subst hab
      have hw : w = v := by simpa [Memory.get] using h a
      subst hw
      congr 1
      refine ih rest' hr.2 hr'.2 fun i => ?_
      have := h i
      by_cases hi : a = i
      · subst hi; rw [below rest a hr.2 hr.1, below rest' a hr'.2 hr'.1]
      · simpa [Memory.get, hi] using this

end Memory

/-- A byte reads the same when the buffer and the reset count are the same. -/
theorem fbByte_congr {s t : State} (hf : t.fb = s.fb) (he : t.epoch = s.epoch) (i : Nat) :
    t.fbByte i = s.fbByte i := by
  simp [State.fbByte, hf, he]

@[simp] theorem fbByte_set_self (s : State) (i : Nat) (v : Byte) :
    State.fbByte { s with fb := Memory.set s.fb i v } i = v := by
  simp [State.fbByte]

theorem fbByte_set_other (s : State) (i j : Nat) (v : Byte) (h : j ≠ i) :
    State.fbByte { s with fb := Memory.set s.fb i v } j = s.fbByte j := by
  simp [State.fbByte, Memory.get_set_other _ _ _ _ h]

/-- The byte fetch in range. -/
theorem fbRead_of_lt (s : State) (i : Nat) (h : i < maxFrame) : s.fbRead i = some (s.fbByte i) := by
  simp [State.fbRead, h]

/-- The byte store in range. -/
theorem fbWrite_of_lt (s : State) (i : Nat) (v : Byte) (h : i < maxFrame) :
    s.fbWrite i v = some { s with fb := Memory.set s.fb i v } := by
  simp [State.fbWrite, h]

/-- There is no store above index 11 (R41). -/
theorem fbWrite_of_ge (s : State) (i : Nat) (v : Byte) (h : maxFrame ≤ i) : s.fbWrite i v = none := by
  simp [State.fbWrite, Nat.not_lt.2 h]

/-- What a store answers is the state with one byte of the buffer changed, in canonical form. -/
theorem fbWrite_some {s t : State} {i : Nat} {v : Byte} (h : s.fbWrite i v = some t) :
    i < maxFrame ∧ t = { s with fb := Memory.set s.fb i v } := by
  unfold State.fbWrite at h
  split at h
  · exact ⟨‹_›, by simpa using h.symm⟩
  · cases h

@[simp] theorem fbBytes_length (s : State) (n : Nat) : (s.fbBytes n).length = n := by
  simp [State.fbBytes]

end Sys2Proof.Machine
end

