-- ==== Sys2Proof/Laws/Ops.lean ====
section
/-! SUPPORT. What each shared operation can do, said once: the byte store, the bit, the slot, the
symbol the receiver fetches. -/

namespace Sys2Proof.Machine

/-- The state after a bit has been shifted in and the timer restarted (R101). -/
def bitTaken (b : Bool) (lv : Level) (s : State) : State :=
  { s.timerStart with shreg := shiftIn s.shreg b, ref := lv }

/-- The state after a whole byte has been stored (R102). -/
def byteStored (v : Byte) (s : State) : State :=
  { s with
    fb := Memory.set s.fb s.nbytes.toNat v, nbits := 0, nbytes := s.nbytes + 1 }

theorem nbytes_succ_eq_twelve (n : BitVec 4) (h : n.toNat ≤ 11) : n + 1 = 12 ↔ n.toNat = 11 := by
  constructor <;> intro h' <;> bv_omega

theorem nbits_eq_seven (n : BitVec 3) (h : ¬n < 7) : n = 7 := by bv_omega

theorem storeByte_of_lt (v : Byte) (s : State) (h : s.nbytes.toNat < 11) :
    storeByte v s = .next (byteStored v s) := by
  have hlt : s.nbytes.toNat < maxFrame := Nat.lt_succ_of_lt h
  have h' : ¬s.nbytes + 1 = 12 := by rw [nbytes_succ_eq_twelve _ (by omega)]; omega
  unfold storeByte; rw [fbWrite_of_lt _ _ _ hlt]; exact if_neg h'

theorem storeByte_of_eq (v : Byte) (s : State) (h : s.nbytes.toNat = 11) :
    storeByte v s = .next (finish (.bytes 12) (byteStored v s)) := by
  have hlt : s.nbytes.toNat < maxFrame := Nat.lt_succ_of_le h.le
  have h' : s.nbytes + 1 = 12 := (nbytes_succ_eq_twelve _ h.le).2 h
  unfold storeByte; rw [fbWrite_of_lt _ _ _ hlt]; exact if_pos h'

theorem storeByte_of_gt (v : Byte) (s : State) (h : 11 < s.nbytes.toNat) :
    storeByte v s = .fault (.bufferIndex s.nbytes.toNat) := by
  unfold storeByte; rw [fbWrite_of_ge _ _ _ h]

theorem takeBit_of_lt (b : Bool) (lv : Level) (s : State) (h : s.nbits < 7) :
    takeBit b lv s = .next { bitTaken b lv s with nbits := s.nbits + 1 } := if_pos h

theorem takeBit_of_seven (b : Bool) (lv : Level) (s : State) (h : s.nbits = 7) :
    takeBit b lv s = storeByte (shiftIn s.shreg b) (bitTaken b lv s) :=
  if_neg (by rw [h]; decide)

/-- Everything a completed pulse can do when it answers a next state (R101 to R103). -/
theorem takeBit_next {b : Bool} {lv : Level} {s t : State} (h : takeBit b lv s = .next t) :
    (s.nbits < 7 ∧ t = { bitTaken b lv s with nbits := s.nbits + 1 }) ∨
    (s.nbits = 7 ∧ s.nbytes.toNat < 11 ∧
      t = byteStored (shiftIn s.shreg b) (bitTaken b lv s)) ∨
    (s.nbits = 7 ∧ s.nbytes.toNat = 11 ∧
      t = finish (.bytes 12) (byteStored (shiftIn s.shreg b) (bitTaken b lv s))) := by
  by_cases h7 : s.nbits < 7
  · rw [takeBit_of_lt _ _ _ h7] at h
    exact .inl ⟨h7, by simpa using h.symm⟩
  · have h7 := nbits_eq_seven _ h7
    rw [takeBit_of_seven _ _ _ h7] at h
    have hn : (bitTaken b lv s).nbytes = s.nbytes := rfl
    rcases Nat.lt_trichotomy s.nbytes.toNat 11 with hlt | heq | hgt
    · rw [storeByte_of_lt _ _ (by rw [hn]; exact hlt)] at h
      exact .inr (.inl ⟨h7, hlt, by simpa using h.symm⟩)
    · rw [storeByte_of_eq _ _ (by rw [hn]; exact heq)] at h
      exact .inr (.inr ⟨h7, heq, by simpa using h.symm⟩)
    · rw [storeByte_of_gt _ _ (by rw [hn]; exact hgt)] at h
      cases h

/-- A pulse is always taken while there is room for its byte (R41). -/
theorem takeBit_answers (b : Bool) (lv : Level) (s : State) (h : s.nbytes.toNat ≤ 11) :
    ∃ t, takeBit b lv s = .next t := by
  by_cases h7 : s.nbits < 7
  · exact ⟨_, takeBit_of_lt _ _ _ h7⟩
  · rw [takeBit_of_seven _ _ _ (nbits_eq_seven _ h7)]
    rcases Nat.lt_or_ge s.nbytes.toNat 11 with hlt | hge
    · exact ⟨_, storeByte_of_lt _ _ hlt⟩
    · exact ⟨_, storeByte_of_eq _ _ (show s.nbytes.toNat = 11 by omega)⟩

/-- Everything `next_slot` can do when it answers a next state (R124). -/
theorem nextSlot_next {s t : State} (h : nextSlot s = .next t) :
    (s.nbytes.toNat = s.len.toNat ∧ t = { s.drivePassive.timerStart with phase := .txEof }) ∨
    (s.nbytes.toNat ≠ s.len.toNat ∧ (s.nbits = 0 → s.nbytes.toNat < maxFrame) ∧
      t = startSlot (if s.nbits = 0 then s.fbByte s.nbytes.toNat else s.shreg) s) := by
  unfold nextSlot at h
  split at h
  · exact .inl ⟨‹_›, by simpa using h.symm⟩
  · refine .inr ⟨‹_›, ?_⟩
    unfold slotBits at h
    by_cases h0 : s.nbits = 0
    · rw [if_pos h0] at h ⊢
      by_cases hn : s.nbytes.toNat < maxFrame
      · rw [fbRead_of_lt _ _ hn] at h
        exact ⟨fun _ => hn, by simpa using h.symm⟩
      · rw [State.fbRead, if_neg hn] at h
        cases h
    · rw [if_neg h0] at h ⊢
      exact ⟨fun h => absurd h h0, by simpa using h.symm⟩

/-- `next_slot` answers whenever the byte it may fetch exists (R41). -/
theorem nextSlot_answers (s : State)
    (h : s.nbits = 0 → s.nbytes.toNat ≠ s.len.toNat → s.nbytes.toNat < maxFrame) :
    ∃ t, nextSlot s = .next t := by
  unfold nextSlot
  split
  · exact ⟨_, rfl⟩
  · unfold slotBits
    by_cases h0 : s.nbits = 0
    · rw [if_pos h0, fbRead_of_lt _ _ (h h0 ‹_›)]; exact ⟨_, rfl⟩
    · rw [if_neg h0]; exact ⟨_, rfl⟩

/-! The symbol codes of the table decode to their rows. -/

@[simp] theorem decodeSym_waitTimeout : decodeSym (symCode 0 .passive 5) = .ok .waitTimeout := rfl
@[simp] theorem decodeSym_waitActivity : decodeSym (symCode 0 .passive 1) = .ok .waitActivity := rfl
@[simp] theorem decodeSym_sofTooshort : decodeSym (symCode 1 .active 0) = .ok .sofTooshort := rfl
@[simp] theorem decodeSym_sofOk : decodeSym (symCode 1 .active 1) = .ok .sofOk := rfl
@[simp] theorem decodeSym_sofToolong : decodeSym (symCode 1 .active 5) = .ok .sofToolong := rfl
@[simp] theorem decodeSym_pTooshort : decodeSym (symCode 2 .passive 0) = .ok .pTooshort := rfl
@[simp] theorem decodeSym_pShort : decodeSym (symCode 2 .passive 1) = .ok .pShort := rfl
@[simp] theorem decodeSym_pMid : decodeSym (symCode 2 .passive 2) = .ok .pMid := rfl
@[simp] theorem decodeSym_pLong : decodeSym (symCode 2 .passive 3) = .ok .pLong := rfl
@[simp] theorem decodeSym_pOver : decodeSym (symCode 2 .passive 4) = .ok .pOver := rfl
@[simp] theorem decodeSym_pHold : decodeSym (symCode 2 .passive 5) = .ok .pHold := rfl
@[simp] theorem decodeSym_aTooshort : decodeSym (symCode 2 .active 0) = .ok .aTooshort := rfl
@[simp] theorem decodeSym_aShort : decodeSym (symCode 2 .active 1) = .ok .aShort := rfl
@[simp] theorem decodeSym_aMid : decodeSym (symCode 2 .active 2) = .ok .aMid := rfl
@[simp] theorem decodeSym_aLong : decodeSym (symCode 2 .active 3) = .ok .aLong := rfl
@[simp] theorem decodeSym_aOver : decodeSym (symCode 2 .active 4) = .ok .aOver := rfl
@[simp] theorem decodeSym_aHold : decodeSym (symCode 2 .active 5) = .ok .aHold := rfl

theorem level_eq_not {a b : Level} (h : a ≠ b) : a = b.not := by
  cases a <;> cases b <;> simp_all [Level.not]

/-- A measured run whose code decodes runs its row. -/
theorem rxPhase_of_code {lv : Level} {s : State} {w : BitVec 6} {i : Instr}
    (h : symbolCode s lv = some w) (hw : decodeSym w = .ok i) : rxPhase lv s = exec i s := by
  unfold rxPhase; rw [h]; dsimp only; rw [hw]

theorem rxPhase_of_none {lv : Level} {s : State} (h : symbolCode s lv = none) :
    rxPhase lv s = .next s := by
  unfold rxPhase; rw [h]

/-- A receiver phase rule in `RX_WAIT`: activity before the time-out. -/
theorem rxPhase_wait (lv : Level) (s : State) (h : s.phase = .rxWait) :
    rxPhase lv s =
      if lv = .active then exec .waitActivity s
      else if s.params.tNoData ≤ s.tcnt then exec .waitTimeout s
      else .next s := by
  have hc : symbolCode s lv = if lv = .active then some (symCode 0 .passive 1)
      else if s.params.tNoData ≤ s.tcnt then some (symCode 0 .passive 5) else none := by
    unfold symbolCode; rw [h]
  split at hc
  · rw [if_pos ‹_›]; exact rxPhase_of_code hc rfl
  · rw [if_neg ‹_›]
    split at hc
    · rw [if_pos ‹_›]; exact rxPhase_of_code hc rfl
    · rw [if_neg ‹_›]; exact rxPhase_of_none hc

/-- A receiver phase rule in `RX_SOF`: the level decides which window end is looked at. -/
theorem rxPhase_sof (lv : Level) (s : State) (h : s.phase = .rxSof) :
    rxPhase lv s =
      if lv = .active then
        if s.params.rxSofMax ≤ s.tcnt then exec .sofToolong s else .next s
      else if s.tcnt < s.params.rxSofMin then exec .sofTooshort s
      else exec .sofOk s := by
  have hc : symbolCode s lv = if lv = .active then
      if s.params.rxSofMax ≤ s.tcnt then some (symCode 1 .active 5) else none
      else if s.tcnt < s.params.rxSofMin then some (symCode 1 .active 0)
      else some (symCode 1 .active 1) := by
    unfold symbolCode; rw [h]
  split at hc
  · rw [if_pos ‹_›]
    split at hc
    · rw [if_pos ‹_›]; exact rxPhase_of_code hc rfl
    · rw [if_neg ‹_›]; exact rxPhase_of_none hc
  · rw [if_neg ‹_›]
    split at hc
    · rw [if_pos ‹_›]; exact rxPhase_of_code hc rfl
    · rw [if_neg ‹_›]; exact rxPhase_of_code hc rfl

/-- The class of a completed data pulse carries the bit `bitval` gives it, whatever the windows. -/
theorem pulse_class (P : Params) (lv : Level) (d : Nat) (h : ¬d < P.rxShortMin) (s : State) :
    ∃ i, decodeSym (symCode 2 lv (pulseWidth P lv d)) = .ok i ∧
      exec i s = takeBit (bitval P lv d) lv.not s := by
  unfold pulseWidth bitval
  rw [if_neg h]
  cases lv <;> dsimp only
  · by_cases hS : isShort P d
    · rw [if_pos hS, decide_eq_true hS]; exact ⟨.pShort, rfl, rfl⟩
    · rw [if_neg hS, decide_eq_false hS]
      split
      · exact ⟨.pLong, rfl, rfl⟩
      · split
        · exact ⟨.pMid, rfl, rfl⟩
        · exact ⟨.pOver, rfl, rfl⟩
  · by_cases hL : isLong P d
    · rw [if_pos hL, decide_eq_true hL]; exact ⟨.aLong, rfl, rfl⟩
    · rw [if_neg hL, decide_eq_false hL]
      split
      · exact ⟨.aShort, rfl, rfl⟩
      · split
        · exact ⟨.aMid, rfl, rfl⟩
        · exact ⟨.aOver, rfl, rfl⟩

/-- A receiver phase rule in `RX_BIT`. -/
theorem rxPhase_bit (lv : Level) (s : State) (h : s.phase = .rxBit) :
    rxPhase lv s =
      if lv = s.ref then
        if s.params.rxEodMin ≤ s.tcnt then endOfData s else .next s
      else if s.tcnt < s.params.rxShortMin then .next (finish (.error .busError) s)
      else takeBit (bitval s.params s.ref s.tcnt) lv s := by
  have hc : symbolCode s lv = if lv = s.ref then
      if s.params.rxEodMin ≤ s.tcnt then some (symCode 2 s.ref 5) else none
      else some (symCode 2 s.ref (pulseWidth s.params s.ref s.tcnt)) := by
    unfold symbolCode; rw [h]
  by_cases hl : lv = s.ref
  · rw [if_pos hl] at hc ⊢
    split at hc
    · rw [if_pos ‹_›]
      cases hr : s.ref <;> rw [hr] at hc
      · exact rxPhase_of_code (i := .pHold) hc rfl
      · exact rxPhase_of_code (i := .aHold) hc rfl
    · rw [if_neg ‹_›]; exact rxPhase_of_none hc
  · rw [if_neg hl] at hc ⊢
    by_cases hd : s.tcnt < s.params.rxShortMin
    · rw [if_pos hd]
      have hw : pulseWidth s.params s.ref s.tcnt = 0 := by unfold pulseWidth; exact if_pos hd
      rw [hw] at hc
      cases hr : s.ref <;> rw [hr] at hc
      · exact rxPhase_of_code (i := .pTooshort) hc rfl
      · exact rxPhase_of_code (i := .aTooshort) hc rfl
    · rw [if_neg hd]
      obtain ⟨i, hi, hx⟩ := pulse_class s.params s.ref s.tcnt hd s
      rw [rxPhase_of_code hc hi, hx, ← level_eq_not hl]

/-- The receiver forms no code outside the table. -/
theorem symbolCode_decodes {s : State} {lv : Level} {w : BitVec 6} (h : symbolCode s lv = some w) :
    ∃ i, decodeSym w = .ok i := by
  unfold symbolCode at h
  split at h
  · repeat' split at h
    all_goals first | cases h; exact ⟨_, rfl⟩ | cases h
  · repeat' split at h
    all_goals first | cases h; exact ⟨_, rfl⟩ | cases h
  · have all : ∀ (lv : Level) (w : BitVec 3), w ≤ 5 → ∃ i, decodeSym (symCode 2 lv w) = .ok i := by
      intro lv w hw
      have : w = 0 ∨ w = 1 ∨ w = 2 ∨ w = 3 ∨ w = 4 ∨ w = 5 := by bv_omega
      rcases this with rfl | rfl | rfl | rfl | rfl | rfl <;> cases lv <;> exact ⟨_, rfl⟩
    repeat' split at h
    · cases h; exact all _ _ (by decide)
    · cases h
    · cases h
      refine all _ _ ?_
      unfold pulseWidth
      repeat' split
      all_goals decide
  · cases h
  · cases h
  · cases h
  · cases h
  · cases h

end Sys2Proof.Machine
end

