-- ==== Sys2Proof/Laws/PerInstr.lean ====
section
/-! SUPPORT. For every instruction: a well-formed one has a word that fits the format of its row (spec:
`30_encoding.md` R61, R66 to R69). -/

namespace Sys2Proof.Laws.EncodingFits

/-- The word of an instruction fits its row: a symbol code has six bits, no context 3 and a width field
of at most 5; a result is an error kind 1 to 3 behind a set flag or at most 12 bytes behind a clear one; a
command byte is one of the three exactly when the command is not reserved. -/
def fits (i : Instr) : Bool :=
  let w := encodeWord i
  match i.space with
  | .sym => w.extractLsb' 6 2 == 0 && w.extractLsb' 4 2 != 3 && decide (w.extractLsb' 0 3 ≤ 5)
  | .res =>
    if w.msb then decide (1 ≤ w.extractLsb' 0 7) && decide (w.extractLsb' 0 7 ≤ 3)
    else decide (w.toNat ≤ 12)
  | .cmd => (w == 1 || w == 2 || w == 3) == (i == .recv || i == .xmit || i == .crc)

/-- Every well-formed instruction has a word that fits. -/
abbrev Statement (i : Instr) : Prop := i.wf = true → fits i = true

theorem recv : Statement .recv := by decide
theorem xmit : Statement .xmit := by decide
theorem crc : Statement .crc := by decide

theorem cmdReserved (v : Byte) : Statement (.cmdReserved v) := by
  revert v; decide

theorem waitTimeout : Statement .waitTimeout := by decide
theorem waitActivity : Statement .waitActivity := by decide
theorem sofTooshort : Statement .sofTooshort := by decide
theorem sofOk : Statement .sofOk := by decide
theorem sofToolong : Statement .sofToolong := by decide
theorem pTooshort : Statement .pTooshort := by decide
theorem pShort : Statement .pShort := by decide
theorem pMid : Statement .pMid := by decide
theorem pLong : Statement .pLong := by decide
theorem pOver : Statement .pOver := by decide
theorem pHold : Statement .pHold := by decide
theorem aTooshort : Statement .aTooshort := by decide
theorem aShort : Statement .aShort := by decide
theorem aMid : Statement .aMid := by decide
theorem aLong : Statement .aLong := by decide
theorem aOver : Statement .aOver := by decide
theorem aHold : Statement .aHold := by decide

theorem resOkOrBytes (n : BitVec 7) : Statement (.resOkOrBytes n) := by
  revert n; decide

theorem resNodata : Statement .resNodata := by decide
theorem resBuserror : Statement .resBuserror := by decide
theorem resDataerror : Statement .resDataerror := by decide

end Sys2Proof.Laws.EncodingFits
end

