-- ==== Sys2Proof/Laws/Step.lean ====
section
/-! SUPPORT. What a step can do, said once: its three kinds of tick, and every move of a busy tick (the
transition tables R110 and R134 with their conditions). -/

namespace Sys2Proof.Machine

theorem step_of_reset {s : State} (h : s.input.rst = true) :
    step s = .next (s.advance.accessUnderReset s.input.access).resetStep := by
  simp [step, tickStep, h]

theorem step_of_idle {s : State} (h : s.input.rst = false) (hp : s.phase = .idle) :
    step s = hostAccess s.input.access s.advance := by
  simp [step, tickStep, h, hp]

theorem step_of_busy {s : State} (h : s.input.rst = false) (hp : s.phase ≠ .idle) :
    step s = phaseRule s.input.sample s.busyTick := by
  simp [step, tickStep, h, hp]

/-- Every step that answers is one of the three kinds of tick (R81, R195). -/
theorem step_next {s t : State} (h : step s = .next t) :
    (s.input.rst = true ∧ t = (s.advance.accessUnderReset s.input.access).resetStep) ∨
    (s.input.rst = false ∧ s.phase = .idle ∧ hostAccess s.input.access s.advance = .next t) ∨
    (s.input.rst = false ∧ s.phase ≠ .idle ∧
      phaseRule s.input.sample s.busyTick = .next t) := by
  cases hr : s.input.rst
  · by_cases hp : s.phase = .idle
    · rw [step_of_idle hr hp] at h; exact .inr (.inl ⟨rfl, hp, h⟩)
    · rw [step_of_busy hr hp] at h; exact .inr (.inr ⟨rfl, hp, h⟩)
  · rw [step_of_reset hr] at h; exact .inl ⟨rfl, by simpa using h.symm⟩

/-- What an access to an idle block can do (R161 to R163). -/
inductive HostMove (u : State) : Option Access → State → Prop
  | nothing : HostMove u none u
  | read (a : BitVec 5) : HostMove u (some (.rd a)) { u with rdata := some (u.readReg a) }
  | writeFb (a : BitVec 5) (v : Byte) (h : a.toNat < maxFrame) :
      HostMove u (some (.wr a v)) { u with fb := Memory.set u.fb a.toNat v }
  | writeLen (v : Byte) : HostMove u (some (.wr 0x10 v)) { u with len := v }
  | writeTmomult (v : Byte) : HostMove u (some (.wr 0x15 v)) { u with tmomult := v }
  | ignored (a : BitVec 5) (v : Byte)
      (h : hostReg a = .status ∨ hostReg a = .result ∨ hostReg a = .crcout ∨ hostReg a = .reserved) :
      HostMove u (some (.wr a v)) u
  | command (v : Byte) (t : State) (h : exec (decodeCmd v) u = .next t) :
      HostMove u (some (.wr 0x11 v)) t

/-- The address map read backwards (R48). -/
theorem hostReg_cases (a : BitVec 5) :
    (a.toNat < maxFrame ∧ hostReg a = .fb a.toNat) ∨ (a = 0x10 ∧ hostReg a = .len) ∨
    (a = 0x11 ∧ hostReg a = .cmd) ∨ (a = 0x15 ∧ hostReg a = .tmomult) ∨
    (hostReg a = .status ∨ hostReg a = .result ∨ hostReg a = .crcout ∨
      hostReg a = .reserved) := by
  revert a; decide

theorem hostAccess_next {a : Option Access} {u t : State} (h : hostAccess a u = .next t) :
    HostMove u a t := by
  rcases a with _ | a | ⟨a, v⟩
  · simp only [hostAccess, Host.Outcome.next.injEq] at h; subst h; exact .nothing
  · simp only [hostAccess, Host.Outcome.next.injEq] at h; subst h; exact .read a
  · simp only [hostAccess, hostWrite] at h
    rcases hostReg_cases a with ⟨ha, hr⟩ | ⟨rfl, hr⟩ | ⟨rfl, hr⟩ | ⟨rfl, hr⟩ | hr
    · simp only [hr, Host.Outcome.next.injEq] at h; subst h; exact .writeFb a v ha
    · simp only [hr, Host.Outcome.next.injEq] at h; subst h; exact .writeLen v
    · simp only [hr] at h; exact .command v t h
    · simp only [hr, Host.Outcome.next.injEq] at h; subst h; exact .writeTmomult v
    · have : t = u := by
        rcases hr with hr | hr | hr | hr <;>
          (simp only [hr, Host.Outcome.next.injEq] at h; exact h.symm)
      subst this; exact .ignored a v hr

/-- What a command byte written to an idle block does (R66, R67, R96, R121, R150). -/
inductive CommandMove (u : State) : State → Prop
  | recv : CommandMove u { u.timerStart with phase := .rxWait, nbytes := 0, nbits := 0, shreg := 0x00 }
  | xmit (h : u.len.toNat ≤ 12) :
      CommandMove u { u.timerStart with phase := .txIdle, nbytes := 0, nbits := 0 }
  | xmitTooLong (h : 12 < u.len.toNat) : CommandMove u (u.setResult (.error .dataError))
  | crc (h : u.len.toNat ≤ 12) :
      CommandMove u { u with crcout := checksum (u.fbBytes u.len.toNat) }
  | ignored : CommandMove u u

theorem command_next {v : Byte} {u t : State} (hp : u.phase = .idle)
    (h : exec (decodeCmd v) u = .next t) : CommandMove u t := by
  unfold decodeCmd at h
  split at h
  · simp only [exec, execRecv, hp, if_true, Host.Outcome.next.injEq] at h; subst h; exact .recv
  · split at h
    · simp only [exec, execXmit, hp, if_true] at h
      split at h
      · simp only [Host.Outcome.next.injEq] at h; subst h; exact .xmitTooLong ‹_›
      · simp only [Host.Outcome.next.injEq] at h; subst h; exact .xmit (by omega)
    · split at h
      · simp only [exec, execCrc, hp, true_and] at h
        split at h
        · simp only [Host.Outcome.next.injEq] at h; subst h
          rw [← hp]; exact .crc ‹_›
        · simp only [Host.Outcome.next.injEq] at h; subst h; exact .ignored
      · simp only [exec, execCmdReserved, Host.Outcome.next.injEq] at h; subst h; exact .ignored

/-- Every move of a busy tick, on the state whose `TCNT` is `now` (R110, R134). -/
inductive Moves (lv : Level) (u : State) : State → Prop
  | waitOn (hp : u.phase = .rxWait) (hl : lv = .passive) (ht : u.tcnt < u.params.tNoData) : Moves lv u u
  | activity (hp : u.phase = .rxWait) (hl : lv = .active) :
      Moves lv u { u.timerStart with phase := .rxSof }
  | noData (hp : u.phase = .rxWait) (hl : lv = .passive) (ht : u.params.tNoData ≤ u.tcnt) :
      Moves lv u (finish (.error .noData) u)
  | sofOn (hp : u.phase = .rxSof) (hl : lv = .active) (ht : u.tcnt < u.params.rxSofMax) : Moves lv u u
  | sofTooLong (hp : u.phase = .rxSof) (hl : lv = .active) (ht : u.params.rxSofMax ≤ u.tcnt) :
      Moves lv u (finish (.error .busError) u)
  | sofTooShort (hp : u.phase = .rxSof) (hl : lv = .passive) (ht : u.tcnt < u.params.rxSofMin) :
      Moves lv u (finish (.error .busError) u)
  | sofOk (hp : u.phase = .rxSof) (hl : lv = .passive) (ht : u.params.rxSofMin ≤ u.tcnt) :
      Moves lv u { u.timerStart with phase := .rxBit, ref := .passive }
  | runOn (hp : u.phase = .rxBit) (hl : lv = u.ref) (ht : u.tcnt < u.params.rxEodMin) : Moves lv u u
  | endOfData (hp : u.phase = .rxBit) (hl : lv = u.ref) (ht : u.params.rxEodMin ≤ u.tcnt) :
      Moves lv u (finish (.bytes u.nbytes.toNat) u)
  | pulseTooShort (hp : u.phase = .rxBit) (hl : lv ≠ u.ref) (ht : u.tcnt < u.params.rxShortMin) :
      Moves lv u (finish (.error .busError) u)
  | bit (hp : u.phase = .rxBit) (hl : lv ≠ u.ref) (ht : u.params.rxShortMin ≤ u.tcnt)
      (hn : u.nbits < 7) :
      Moves lv u { bitTaken (bitval u.params u.ref u.tcnt) lv u with nbits := u.nbits + 1 }
  | byte (hp : u.phase = .rxBit) (hl : lv ≠ u.ref) (ht : u.params.rxShortMin ≤ u.tcnt)
      (hn : u.nbits = 7) (hb : u.nbytes.toNat < 11) :
      Moves lv u (byteStored (shiftIn u.shreg (bitval u.params u.ref u.tcnt))
        (bitTaken (bitval u.params u.ref u.tcnt) lv u))
  | cap (hp : u.phase = .rxBit) (hl : lv ≠ u.ref) (ht : u.params.rxShortMin ≤ u.tcnt)
      (hn : u.nbits = 7) (hb : u.nbytes.toNat = 11) :
      Moves lv u (finish (.bytes 12) (byteStored (shiftIn u.shreg (bitval u.params u.ref u.tcnt))
        (bitTaken (bitval u.params u.ref u.tcnt) lv u)))
  | idleRestart (hp : u.phase = .txIdle) (hl : lv = .active) : Moves lv u u.timerStart
  | idleOn (hp : u.phase = .txIdle) (hl : lv = .passive) (ht : u.tcnt < u.params.rxIfsMin) :
      Moves lv u u
  | idleConfirmed (hp : u.phase = .txIdle) (hl : lv = .passive) (ht : u.params.rxIfsMin ≤ u.tcnt) :
      Moves lv u { u.driveActive.timerStart with phase := .txSof }
  | txSofOn (hp : u.phase = .txSof) (ht : u.tcnt < u.params.txSof) : Moves lv u u
  | collision (hp : u.phase = .txBit) (hd : u.drv = .passive) (hl : lv = .active) :
      Moves lv u (finish (.error .busError) u)
  | slotOn (hp : u.phase = .txBit) (hc : ¬(u.drv = .passive ∧ lv = .active)) (ht : u.tcnt < u.dur) :
      Moves lv u u
  | slot (hp : u.phase = .txSof ∧ u.params.txSof ≤ u.tcnt ∨
        u.phase = .txBit ∧ u.dur ≤ u.tcnt ∧ ¬(u.drv = .passive ∧ lv = .active))
      (hn : u.nbytes.toNat ≠ u.len.toNat) (hb : u.nbits = 0 → u.nbytes.toNat < maxFrame) :
      Moves lv u (startSlot (if u.nbits = 0 then u.fbByte u.nbytes.toNat else u.shreg) u)
  | frameEnd (hp : u.phase = .txSof ∧ u.params.txSof ≤ u.tcnt ∨
        u.phase = .txBit ∧ u.dur ≤ u.tcnt ∧ ¬(u.drv = .passive ∧ lv = .active))
      (hn : u.nbytes.toNat = u.len.toNat) :
      Moves lv u { u.drivePassive.timerStart with phase := .txEof }
  | eofOn (hp : u.phase = .txEof) (ht : u.tcnt < u.params.txEof) : Moves lv u u
  | done (hp : u.phase = .txEof) (ht : u.params.txEof ≤ u.tcnt) : Moves lv u (finish .ok u)

theorem level_passive_of_ne {lv : Level} (h : ¬lv = .active) : lv = .passive := by
  cases lv <;> simp_all

/-- A busy tick that answers makes one of the moves of the tables R110 and R134. -/
theorem phaseRule_next {lv : Level} {u t : State} (hb : u.phase ≠ .idle)
    (h : phaseRule lv u = .next t) : Moves lv u t := by
  unfold phaseRule at h
  split at h
  · contradiction
  · rename_i hp
    rw [rxPhase_wait _ _ hp] at h
    split at h
    · cases h; exact .activity hp ‹_›
    · have hl := level_passive_of_ne ‹_›
      split at h
      · cases h; exact .noData hp hl ‹_›
      · cases h; exact .waitOn hp hl (by omega)
  · rename_i hp
    rw [rxPhase_sof _ _ hp] at h
    split at h
    · split at h
      · cases h; exact .sofTooLong hp ‹_› ‹_›
      · cases h; exact .sofOn hp ‹_› (by omega)
    · have hl := level_passive_of_ne ‹_›
      split at h
      · cases h; exact .sofTooShort hp hl ‹_›
      · cases h; exact .sofOk hp hl (by omega)
  · rename_i hp
    rw [rxPhase_bit _ _ hp] at h
    split at h
    · split at h
      · cases h; exact .endOfData hp ‹_› ‹_›
      · cases h; exact .runOn hp ‹_› (by omega)
    · split at h
      · cases h; exact .pulseTooShort hp ‹_› ‹_›
      · have ht : u.params.rxShortMin ≤ u.tcnt := by omega
        rcases takeBit_next h with ⟨hn, rfl⟩ | ⟨hn, hy, rfl⟩ | ⟨hn, hy, rfl⟩
        · exact .bit hp ‹_› ht hn
        · exact .byte hp ‹_› ht hn hy
        · exact .cap hp ‹_› ht hn hy
  · rename_i hp
    unfold txIdlePhase at h
    split at h
    · cases h; exact .idleRestart hp ‹_›
    · have hl := level_passive_of_ne ‹_›
      split at h
      · cases h; exact .idleConfirmed hp hl ‹_›
      · cases h; exact .idleOn hp hl (by omega)
  · rename_i hp
    unfold txSofPhase at h
    split at h
    · rcases nextSlot_next h with ⟨hn, rfl⟩ | ⟨hn, hy, rfl⟩
      · exact .frameEnd (.inl ⟨hp, ‹_›⟩) hn
      · exact .slot (.inl ⟨hp, ‹_›⟩) hn hy
    · cases h; exact .txSofOn hp (by omega)
  · rename_i hp
    unfold txBitPhase at h
    split at h
    · cases h; exact .collision hp (by simp_all) (by simp_all)
    · split at h
      · rcases nextSlot_next h with ⟨hn, rfl⟩ | ⟨hn, hy, rfl⟩
        · exact .frameEnd (.inr ⟨hp, ‹_›, ‹_›⟩) hn
        · exact .slot (.inr ⟨hp, ‹_›, ‹_›⟩) hn hy
      · cases h; exact .slotOn hp ‹_› (by omega)
  · rename_i hp
    unfold txEofPhase at h
    split at h
    · have : exec (.resOkOrBytes 0) u = .next (finish .ok u) := by
        simp [exec, execResOkOrBytes, successResult, hp, Phase.isTx]
      rw [this] at h; cases h; exact .done hp ‹_›
    · cases h; exact .eofOn hp (by omega)

/-- In a receiver phase the rule is the receiver's. -/
theorem phaseRule_rx {lv : Level} {u : State} (h : u.phase.isRx = true) :
    phaseRule lv u = rxPhase lv u := by
  unfold phaseRule
  split <;> first | rfl | (rename_i hp; rw [hp] at h; cases h)

/-- A busy step that answers makes one of the moves. -/
theorem step_moves {s t : State} (hr : s.input.rst = false) (hp : s.phase ≠ .idle)
    (h : step s = .next t) : Moves s.input.sample s.busyTick t := by
  rw [step_of_busy hr hp] at h
  exact phaseRule_next (by simpa using hp) h

/-- `run` of any machine, one step at a time. -/
theorem core_run_succ (M : Host.Core) (k : Nat) (s : M.State) :
    M.run (k + 1) s = match M.step s with
      | .next s' => M.run k s'
      | .fault r => .fault r
      | .refused r => .refused r := rfl

/-- `run` one step at a time. -/
theorem run_succ {k : Nat} {s t : State} (h : step s = .next t) :
    Host.Core.run core (k + 1) s = Host.Core.run core k t := by
  have h' : core.step s = .next t := h
  exact (core_run_succ core k s).trans (by rw [h'])

/-- A run that answers after `k + 1` steps answers after its first. -/
theorem run_succ_next {k : Nat} {s t : State} (h : Host.Core.run core (k + 1) s = .next t) :
    ∃ u, step s = .next u ∧ Host.Core.run core k u = .next t := by
  have e := core_run_succ core k s
  cases hs : step s with
  | next u => exact ⟨u, rfl, run_succ hs ▸ h⟩
  | fault r =>
    have h' : core.step s = .fault r := hs
    rw [h'] at e; cases e.symm.trans h
  | refused r =>
    have h' : core.step s = .refused r := hs
    rw [h'] at e; cases e.symm.trans h

/-- Running in two parts. -/
theorem run_add {j k : Nat} {s t : State} (h : Host.Core.run core j s = .next t) :
    Host.Core.run core (j + k) s = Host.Core.run core k t := by
  induction j generalizing s with
  | zero => cases h; rw [Nat.zero_add]
  | succ j ih =>
    obtain ⟨u, hu, hr⟩ := run_succ_next h
    rw [Nat.succ_add, run_succ hu]
    exact ih hr

/-- The coming inputs, one tick on. -/
theorem coming_cons {s : State} {i : TickIn} {ts : List TickIn} (h : s.Coming (i :: ts)) :
    s.input = i ∧ i.rst = false ∧ ∀ t : State, t.inputs = s.inputs.tail → t.Coming ts := by
  obtain ⟨⟨rest, hr⟩, hn⟩ := h
  refine ⟨by simp [State.input, hr], hn i (by simp), fun t ht => ⟨⟨rest, by simp [ht, hr]⟩, ?_⟩⟩
  exact fun x hx => hn x (by simp [hx])

end Sys2Proof.Machine
end

