-- ==== Sys2Proof/Tests/Slice0.lean ====
section
/-! SUPPORT. Tests: what the checks refuse, the words of the spec's encodings, the vectors of
`95_test_vectors.md`, and for every statement with hypotheses a state that meets them. -/

namespace Sys2Proof.Tests

open Sys2Proof Sys2Proof.Machine

/-! ### States -/

/-- A tick in which the sample is `lv` and nothing else happens. -/
def quiet (lv : Level) : TickIn := ⟨false, lv, .passive, none⟩

/-- A tick with a host access on a silent bus. -/
def host (a : Access) : TickIn := ⟨false, .passive, .passive, some a⟩

/-- A tick in which another node drives. -/
def other : TickIn := ⟨false, .active, .active, none⟩

/-- A block with the numbers of TSET-1 (R10) in phase `p` with `TCNT = n` and one coming tick. -/
def blk (p : Phase) (n : Nat) (i : TickIn) : State :=
  { State.reset with params := .tset1, phase := p, tcnt := n, trun := p != .idle, inputs := [i] }

/-- A data pulse of level `lv` in progress, `n` ticks measured, the next sample being `next`. -/
def pulse (lv : Level) (n : Nat) (next : Level) : State :=
  { blk .rxBit n (quiet next) with ref := lv }

/-- An outcome is a next state with a property. -/
def nextIs (o : Outcome) (p : State → Bool) : Bool :=
  match o with
  | .next t => p t
  | .fault _ => false
  | .refused _ => false

/-- A parameter set with WF1 to WF7 in which runs are short. -/
def tiny : Params where
  rxSofMin := 2
  rxSofMax := 3
  rxShortMin := 1
  rxShortMax := 2
  rxLongMin := 1
  rxLongMax := 3
  rxEodMin := 2
  rxIfsMin := 3
  txSof := 2
  txShort := 1
  txLong := 2
  txEof := 3
  tNoData := 4
  wTimer := 3

/-! ### Well-formedness: what the check refuses (R67, R68, R69) -/

theorem test_wf_reserved_recv : (Instr.cmdReserved 0x01).wf = false := by decide
theorem test_wf_reserved_xmit : (Instr.cmdReserved 0x02).wf = false := by decide
theorem test_wf_reserved_crc : (Instr.cmdReserved 0x03).wf = false := by decide
theorem test_wf_thirteen_bytes : (Instr.resOkOrBytes 13).wf = false := by decide
theorem test_wf_largest_payload : (Instr.resOkOrBytes 127).wf = false := by decide

/-! ### Decoding: every row's word, bit by bit (R66, R67, R61, R68) -/

theorem test_decode_commands :
    decode .cmd 0b00000001 = .ok .recv ∧ decode .cmd 0b00000010 = .ok .xmit ∧
    decode .cmd 0b00000011 = .ok .crc ∧ decode .cmd 0b00000000 = .ok (.cmdReserved 0x00) ∧
    decode .cmd 0b11111111 = .ok (.cmdReserved 0xFF) := by decide

theorem test_decode_wait_and_sof :
    decode .sym 0b00000101 = .ok .waitTimeout ∧ decode .sym 0b00000001 = .ok .waitActivity ∧
    decode .sym 0b00011000 = .ok .sofTooshort ∧ decode .sym 0b00011001 = .ok .sofOk ∧
    decode .sym 0b00011101 = .ok .sofToolong := by decide

theorem test_decode_passive_pulses :
    decode .sym 0b00100000 = .ok .pTooshort ∧ decode .sym 0b00100001 = .ok .pShort ∧
    decode .sym 0b00100010 = .ok .pMid ∧ decode .sym 0b00100011 = .ok .pLong ∧
    decode .sym 0b00100100 = .ok .pOver ∧ decode .sym 0b00100101 = .ok .pHold := by decide

theorem test_decode_active_pulses :
    decode .sym 0b00101000 = .ok .aTooshort ∧ decode .sym 0b00101001 = .ok .aShort ∧
    decode .sym 0b00101010 = .ok .aMid ∧ decode .sym 0b00101011 = .ok .aLong ∧
    decode .sym 0b00101100 = .ok .aOver ∧ decode .sym 0b00101101 = .ok .aHold := by decide

theorem test_decode_results :
    decode .res 0b00000000 = .ok (.resOkOrBytes 0) ∧ decode .res 0b00000011 = .ok (.resOkOrBytes 3) ∧
    decode .res 0b10000001 = .ok .resNodata ∧ decode .res 0b10000010 = .ok .resBuserror ∧
    decode .res 0b10000011 = .ok .resDataerror := by decide

/-- R61, R69: codes of no row are refused by name. -/
theorem test_decode_rejects :
    decode .sym 0b00000000 = .error (.reservedSymbol 0) ∧
    decode .sym 0b00110000 = .error (.reservedSymbol 0b110000) ∧
    decode .sym 0b01000001 = .error (.wideSymbol 0x41) ∧
    decode .res 0x0D = .error (.reservedResult 0x0D) ∧
    decode .res 0x80 = .error (.reservedResult 0x80) ∧
    decode .res 0x84 = .error (.reservedResult 0x84) ∧ decodeBytes .cmd [] = .error .noByte := by
  decide

theorem test_decode_table_words :
    decodeTableWord 8 0x03 = some .crc ∧ decodeTableWord 6 0b000001 = some .waitActivity ∧
    decodeTableWord 6 0b101011 = some .aLong ∧ decodeTableWord 8 0x82 = some .resBuserror ∧
    decodeTableWord 8 0x04 = some (.resOkOrBytes 4) ∧
    decodeTableWord 8 0xFF = some (.cmdReserved 0xFF) := by decide

/-- Programs of `95_test_vectors.md` section 3: `WR CMD, 0x03` is (1, 0x11, 0x03). -/
theorem test_access_triples :
    encodeAccess (.wr 0x11 0x03) = (1, 0x11, 0x03) ∧ encodeAccess (.rd 0x14) = (0, 0x14, 0) ∧
    decodeAccess (1, 0x05, 0xBE) = .wr 0x05 0xBE ∧ decodeAccess (0, 0x12, 0x00) = .rd 0x12 := by
  decide

/-- The address map of R48. -/
theorem test_host_map :
    hostReg 0x00 = .fb 0 ∧ hostReg 0x0B = .fb 11 ∧ hostReg 0x0C = .reserved ∧
    hostReg 0x10 = .len ∧ hostReg 0x11 = .cmd ∧ hostReg 0x12 = .status ∧ hostReg 0x13 = .result ∧
    hostReg 0x14 = .crcout ∧ hostReg 0x15 = .tmomult ∧ hostReg 0x16 = .reserved ∧
    hostReg 0x1F = .reserved := by decide

/-- R73: `LOAD`, `XMIT n` and a poll. -/
theorem test_script_expand :
    (ScriptLine.load [0x8D, 0x93]).expand = [.wr 0x00 0x8D, .wr 0x01 0x93] ∧
    (ScriptLine.xmitLen 6).expand = [.wr 0x10 6, .wr 0x11 0x02] ∧
    (ScriptLine.load (List.replicate 13 0xEE)).expand.getLast? = some (.wr 0x0B 0xEE) ∧
    (ScriptLine.poll 2).expand = [.rd 0x12, .rd 0x12] := by decide

/-- R166, row `receive`: three bytes are read after 0x03, none after an error. -/
theorem test_receive_script :
    (SourceCall.receive.script 1 0x03).flatMap (·.expand) =
      [.wr 0x11 0x01, .rd 0x12, .rd 0x13, .rd 0x00, .rd 0x01, .rd 0x02] ∧
    (SourceCall.receive.script 1 0x81).flatMap (·.expand) = [.wr 0x11 0x01, .rd 0x12, .rd 0x13] := by
  decide

/-- R166, row `transmit`: the length is the caller's; S3 uses 13. -/
theorem test_transmit_script :
    ((SourceCall.transmit [0x8D, 0x93] 1).script 0 0x00).flatMap (·.expand) =
      [.wr 0x00 0x8D, .wr 0x10 1, .wr 0x11 0x02, .rd 0x13] ∧
    ((SourceCall.transmit (List.replicate 13 0) 13).script 0 0x00).contains (.wr 0x10 13) = true := by
  decide

/-! ### Encoding functions and the checksum -/

/-- V-ENC-1. -/
theorem test_bitval :
    [34, 64, 95, 96, 97, 128, 162, 163].map (bitval .tset1 .passive) =
      [true, true, true, false, false, false, false, false] ∧
    [34, 64, 95, 96, 97, 128, 162, 163].map (bitval .tset1 .active) =
      [false, false, false, false, true, true, true, false] := by decide

/-- V-ENC-3: the slots of 0x8D. -/
theorem test_slots :
    Claims.frameWave .tset1 [0x8D] =
      [(.passive, 64), (.active, 64), (.passive, 128), (.active, 64), (.passive, 64),
       (.active, 128), (.passive, 128), (.active, 128)] := by decide

/-- V-ENC-4. -/
theorem test_result_codes :
    [enc .ok, enc (.bytes 0), enc (.bytes 3), enc (.bytes 12), enc (.error .noData),
      enc (.error .busError), enc (.error .dataError)] =
      [0x00, 0x00, 0x03, 0x0C, 0x81, 0x82, 0x83] := by decide

/-- V-CRC-2. -/
theorem test_crc_bit :
    [crcBit 0xFF true, crcBit 0x7F true, crcBit 0xFF false, crcBit 0x7F false, crcBit 0x00 false,
      crcBit 0x00 true, crcBit 0x80 false, crcBit 0x80 true] =
      [0xFE, 0xE3, 0xE3, 0xFE, 0x00, 0x1D, 0x1D, 0x00] := by decide

/-- V-CRC-1, V-CRC-3, V-CRC-4. -/
theorem test_checksum :
    checksum [0x8D, 0x93, 0x01, 0x00, 0x00] = 0xBE ∧
    checksum [0x31, 0x32, 0x33, 0x34, 0x35, 0x36, 0x37, 0x38, 0x39] = 0x4B ∧
    checksum [0x3D, 0x12, 0x81, 0x4B] = 0x3B := by decide +kernel

/-- `test_crc_bit` and the bytes of V-CRC-1: FF, 63, 7F, FF, C4, 41. -/
theorem test_crc_bytes :
    [crcByte 0xFF 0x8D, crcByte 0x63 0x93, crcByte 0x7F 0x01, crcByte 0xFF 0x00,
      crcByte 0xC4 0x00] = [0x63, 0x7F, 0xFF, 0xC4, 0x41] := by decide

/-! ### One step each -/

/-- V-HOST-4: `RECV` accepted, and `STATUS` is 0x01 in the next tick. -/
theorem test_recv :
    nextIs (step (blk .idle 7 (host (.wr 0x11 0x01)))) (fun t =>
      t.phase == .rxWait && t.tcnt == 0 && t.trun && t.status == 0x01) = true := by decide

/-- V-TX-1. -/
theorem test_xmit_too_long :
    nextIs (step { blk .idle 0 (host (.wr 0x11 0x02)) with len := 13 }) (fun t =>
      t.phase == .idle && t.result == 0x83 && t.drv == .passive && t.tcnt == 0 && !t.trun)
      = true := by decide

/-- V-TX-3: a frame of length 0 is accepted. -/
theorem test_xmit :
    nextIs (step (blk .idle 0 (host (.wr 0x11 0x02)))) (fun t =>
      t.phase == .txIdle && t.trun && t.drv == .passive) = true := by decide

/-- V-CRC-5. -/
theorem test_crc :
    nextIs (step { blk .idle 0 (host (.wr 0x11 0x03)) with
      fb := [(0, 0x8D), (1, 0x93), (2, 0x01), (3, 0x00), (4, 0x00)], len := 5, result := 0x82 })
      (fun t => t.crcout == 0xBE && t.result == 0x82 && t.phase == .idle) = true := by decide +kernel

/-- V-HOST-3. -/
theorem test_cmd_reserved :
    step (blk .idle 0 (host (.wr 0x11 0x04))) = .next (blk .idle 0 (host (.wr 0x11 0x04))).advance :=
  rfl

/-- V-RX-1: `NoData` at the 100th passive sample. -/
theorem test_wait_timeout :
    nextIs (step (blk .rxWait 99 (quiet .passive))) (fun t =>
      t.phase == .idle && t.result == 0x81 && t.tcnt == 100) = true := by decide

/-- V-RX-1: not at the 99th. -/
theorem test_wait_timeout_not_before :
    nextIs (step (blk .rxWait 98 (quiet .passive))) (fun t => t.phase == .rxWait && t.tcnt == 99)
      = true := by decide

/-- V-RX-2: activity in the last tick of the window wins. -/
theorem test_wait_activity :
    nextIs (step (blk .rxWait 99 (quiet .active))) (fun t => t.phase == .rxSof && t.tcnt == 0)
      = true := by decide

/-- V-RX-3a. -/
theorem test_sof_tooshort :
    nextIs (step (blk .rxSof 161 (quiet .passive))) (fun t => t.phase == .idle && t.result == 0x82)
      = true := by decide

/-- V-RX-3b. -/
theorem test_sof_ok_lower :
    nextIs (step (blk .rxSof 162 (quiet .passive))) (fun t => t.phase == .rxBit && t.tcnt == 0)
      = true := by decide

/-- V-RX-3c. -/
theorem test_sof_ok_upper :
    nextIs (step (blk .rxSof 238 (quiet .passive))) (fun t => t.phase == .rxBit) = true := by decide

/-- V-RX-3d. -/
theorem test_sof_toolong :
    nextIs (step (blk .rxSof 238 (quiet .active))) (fun t => t.phase == .idle && t.result == 0x82)
      = true := by decide

/-- V-RX-5, d = 33. -/
theorem test_p_tooshort :
    nextIs (step (pulse .passive 32 .active)) (fun t => t.phase == .idle && t.result == 0x82)
      = true := by decide

/-- V-RX-5, d = 34 and 95: bit 1. -/
theorem test_p_short :
    [33, 94].all (fun n => nextIs (step (pulse .passive n .active)) fun t =>
      t.shreg == 0x01 && t.nbits == 1 && t.ref == .active && t.tcnt == 0) = true := by decide

/-- V-RX-5, d = 96: bit 0. -/
theorem test_p_mid :
    nextIs (step (pulse .passive 95 .active)) (fun t => t.shreg == 0x00 && t.nbits == 1)
      = true := by decide

/-- V-RX-5, d = 97 and 162: bit 0. -/
theorem test_p_long :
    [96, 161].all (fun n => nextIs (step (pulse .passive n .active)) fun t =>
      t.shreg == 0x00 && t.nbits == 1) = true := by decide

/-- V-RX-5, d = 163: a pulse of exactly `RX_EOD_MIN` samples is still a pulse. -/
theorem test_p_over :
    nextIs (step (pulse .passive 162 .active)) (fun t =>
      t.phase == .rxBit && t.shreg == 0x00 && t.nbits == 1) = true := by decide

/-- V-RX-9: end of data after three bytes. -/
theorem test_p_hold :
    nextIs (step { pulse .passive 162 .passive with nbytes := 3 }) (fun t =>
      t.phase == .idle && t.result == 0x03 && t.resultTag == some (.bytes 3)) = true := by decide

/-- V-RX-6, d = 33. -/
theorem test_a_tooshort :
    nextIs (step (pulse .active 32 .passive)) (fun t => t.phase == .idle && t.result == 0x82)
      = true := by decide

/-- V-RX-6, d = 34 and 95: bit 0. -/
theorem test_a_short :
    [33, 94].all (fun n => nextIs (step (pulse .active n .passive)) fun t =>
      t.shreg == 0x00 && t.nbits == 1 && t.ref == .passive) = true := by decide

/-- V-RX-6, d = 96: bit 0. -/
theorem test_a_mid :
    nextIs (step (pulse .active 95 .passive)) (fun t => t.shreg == 0x00 && t.nbits == 1)
      = true := by decide

/-- V-RX-6, d = 97 and 162: bit 1. -/
theorem test_a_long :
    [96, 161].all (fun n => nextIs (step (pulse .active n .passive)) fun t =>
      t.shreg == 0x01 && t.nbits == 1) = true := by decide

/-- V-RX-6, d = 163: bit 0. -/
theorem test_a_over :
    nextIs (step (pulse .active 162 .passive)) (fun t => t.shreg == 0x00 && t.nbits == 1)
      = true := by decide

/-- V-RX-8: end of data on an active run, the ninth bit dropped. -/
theorem test_a_hold :
    nextIs (step { pulse .active 162 .active with nbytes := 1, nbits := 1, shreg := 0x4B })
      (fun t => t.phase == .idle && t.result == 0x01 && t.nbits == 1 && t.shreg == 0x4B)
      = true := by decide

/-- V-RX-4: the eighth bit of 0x8D, an active pulse of 128, stores the byte. -/
theorem test_eighth_bit :
    nextIs (step { pulse .active 127 .passive with nbits := 7, shreg := 0x46 }) (fun t =>
      t.fb == [(0, 0x8D)] && t.nbits == 0 && t.nbytes == 1 && t.phase == .rxBit) = true := by decide

/-- V-RX-11: the twelfth byte completes the receive. -/
theorem test_twelfth_byte :
    nextIs (step { pulse .active 63 .passive with nbits := 7, nbytes := 11, shreg := 0x66 })
      (fun t => t.fb == [(11, 0xCC)] && t.phase == .idle && t.result == 0x0C && t.tcnt == 0)
      = true := by decide

/-- V-TX-4: activity restarts the idle wait. -/
theorem test_idle_restart :
    nextIs (step (blk .txIdle 279 other)) (fun t => t.phase == .txIdle && t.tcnt == 0)
      = true := by decide

/-- V-TX-2: idle confirmed at tick 280, the SOF on the wire from tick 281. -/
theorem test_idle_confirmed :
    nextIs (step (blk .txIdle 279 (quiet .passive))) (fun t =>
      t.phase == .txSof && t.drvOut == .active && t.tcnt == 0) = true := by decide

/-- V-TX-2, first slot `P64` of 0x8D; the sample is not examined in the SOF (V-TX-7f). -/
theorem test_first_slot :
    nextIs (step { blk .txSof 199 other with drv := .active, len := 1, fb := [(0, 0x8D)] })
      (fun t => t.phase == .txBit && t.drv == .passive && t.dur == 64 && t.shreg == 0x1A &&
        t.nbits == 1) = true := by decide

/-- V-TX-7b: a collision in the last tick of a passive slot. -/
theorem test_collision :
    nextIs (step { blk .txBit 63 other with len := 1, nbits := 1, shreg := 0x1A, dur := 64 })
      (fun t => t.phase == .idle && t.result == 0x82 && t.tcnt == 64 && t.drv == .passive)
      = true := by decide

/-- V-TX-2: after the last slot the end of frame, and `Ok` at its 280th tick. -/
theorem test_end_of_frame :
    nextIs (step { blk .txBit 127 (quiet .active) with drv := .active, len := 1, nbytes := 1, dur := 128 })
      (fun t => t.phase == .txEof && t.drv == .passive) &&
    nextIs (step { blk .txEof 279 (quiet .passive) with len := 1, nbytes := 1 })
      (fun t => t.phase == .idle && t.result == 0x00 && t.resultTag == some .ok) = true := by decide

/-- V-ENC-4, R180: the result codes. -/
theorem test_result_instructions :
    nextIs (exec .resNodata (blk .rxWait 5 (quiet .passive))) (fun t => t.result == 0x81) &&
    nextIs (exec .resBuserror (blk .rxSof 5 (quiet .passive))) (fun t => t.result == 0x82) &&
    nextIs (exec .resDataerror (blk .idle 5 (quiet .passive))) (fun t => t.result == 0x83) &&
    nextIs (exec (.resOkOrBytes 12) (blk .rxBit 5 (quiet .passive))) (fun t =>
      t.result == 0x0C && t.resultTag == some (.bytes 12)) = true := by decide

/-- V-RST-1. -/
theorem test_reset :
    nextIs (step { blk .txSof 119 ⟨true, .active, .passive, none⟩ with
      drv := .active, len := 6, tmomult := 0, result := 0x82 }) (fun t =>
      t.phase == .idle && t.drv == .passive && t.result == 0x00 && t.tmomult == 25 && t.len == 0 &&
      t.params == .tset1) = true := by decide

/-- V-HOST-1, V-HOST-2: reads after reset, and a write of `TMOMULT`. -/
theorem test_host_port :
    [(0x10, 0x00), (0x11, 0x00), (0x12, 0x00), (0x13, 0x00), (0x14, 0x00), (0x15, 0x19)].all
      (fun x : BitVec 5 × Byte =>
        nextIs (step (blk .idle 0 (host (.rd x.1)))) fun t => t.rdata == some x.2) &&
    nextIs (step (blk .idle 0 (host (.wr 0x15 0x00)))) (fun t => t.tmomult == 0x00) = true := by
  decide

/-- The instruction of a word runs after it has been placed, from reset. -/
theorem test_with_fetch_word :
    nextIs (step (State.reset.withFetchWord 8 0x01)) (fun t => t.phase == .rxWait) &&
    nextIs (step (State.reset.withFetchWord 6 0b101011)) (fun t => t.shreg == 0x01) &&
    nextIs (step (State.reset.withFetchWord 8 0x83)) (fun t => t.result == 0x83) = true := by decide

/-- The host's duties (R166): `CRC` with 13 bytes breaks one, a poll of `STATUS` none. -/
theorem test_host_duty :
    { blk .idle 0 (host (.wr 0x11 0x03)) with len := 13 }.hostDuty = false ∧
    (blk .rxWait 0 (host (.rd 0x12))).hostDuty = true ∧
    (blk .rxWait 0 (host (.rd 0x13))).hostDuty = false := by decide

/-! ### Witnesses: states that meet the hypotheses of the statements, clause by clause -/

/-- What `nextIs` says. -/
theorem next_of {o : Outcome} {p : State → Bool} (h : nextIs o p = true) :
    ∃ t, o = .next t ∧ p t = true := by
  cases o with
  | next t => exact ⟨t, rfl, h⟩
  | fault r => cases h
  | refused r => cases h

theorem witness_DecodeOfEncodeIsIdentity :
    Instr.recv.wf = true ∧ (Instr.cmdReserved 0x00).wf = true ∧ (Instr.cmdReserved 0x04).wf = true ∧
    Instr.aHold.wf = true ∧ (Instr.resOkOrBytes 0).wf = true ∧
    (Instr.resOkOrBytes 12).wf = true := by decide

theorem witness_DecodedCodesEncodeBack :
    decode .cmd 0xFF = .ok (.cmdReserved 0xFF) ∧ decode .sym 0x2D = .ok .aHold ∧
    decode .res 0x0C = .ok (.resOkOrBytes 12) := by decide

theorem witness_ResultCodesAreAsTabled : (0 : Nat) ≤ 12 ∧ (12 : Nat) ≤ 12 := by decide

theorem witness_BitvalInvertsTxdur :
    Params.tset1.WF2 ∧ Params.tset1.WF3 ∧ Params.tset1.WF4 := by decide

/-- Every clause at the ends of its range: the class of a run of `n` ticks in a phase, with a reference
and the sample that comes. -/
theorem witness_RunClassesFollowTable :
    Params.tset1.WF4 ∧ Params.tset1.WF5 ∧ Params.tset1.WF9 ∧
    [(Phase.rxWait, Level.passive, 0, Level.active, some Instr.waitActivity),
     (.rxWait, .passive, 99, .passive, none), (.rxWait, .passive, 100, .passive, some .waitTimeout),
     (.rxSof, .passive, 162, .passive, some .sofTooshort),
     (.rxSof, .passive, 163, .passive, some .sofOk), (.rxSof, .passive, 239, .passive, some .sofOk),
     (.rxSof, .passive, 238, .active, none), (.rxSof, .passive, 239, .active, some .sofToolong),
     (.rxBit, .passive, 33, .active, some .pTooshort), (.rxBit, .passive, 34, .active, some .pShort),
     (.rxBit, .passive, 95, .active, some .pShort), (.rxBit, .passive, 96, .active, some .pMid),
     (.rxBit, .passive, 97, .active, some .pLong), (.rxBit, .passive, 162, .active, some .pLong),
     (.rxBit, .passive, 163, .active, some .pOver), (.rxBit, .passive, 162, .passive, none),
     (.rxBit, .passive, 163, .passive, some .pHold),
     (.rxBit, .active, 33, .passive, some .aTooshort), (.rxBit, .active, 34, .passive, some .aShort),
     (.rxBit, .active, 95, .passive, some .aShort), (.rxBit, .active, 96, .passive, some .aMid),
     (.rxBit, .active, 97, .passive, some .aLong), (.rxBit, .active, 162, .passive, some .aLong),
     (.rxBit, .active, 163, .passive, some .aOver), (.rxBit, .active, 162, .active, none),
     (.rxBit, .active, 163, .active, some .aHold)].all
      (fun x : Phase × Level × Nat × Level × Option Instr =>
        Claims.measured { blk x.1 x.2.2.1 (quiet .passive) with ref := x.2.1 } x.2.2.2.1 ==
          x.2.2.2.2) = true := by decide

theorem witness_ResetStepResetsEverything :
    (blk .txBit 9 ⟨true, .active, .passive, some (.wr 0x11 0x01)⟩).input.rst = true := by decide

theorem witness_StepRunsWrittenCommand :
    ∃ s : State, s.input.rst = false ∧ s.phase = .idle ∧ s.input.access = some (.wr 0x11 0x02) :=
  ⟨blk .idle 0 (host (.wr 0x11 0x02)), by decide⟩

/-- A run that completes a class, and one that goes on. -/
theorem witness_StepRunsMeasuredSymbol :
    (∃ s : State, s.input.rst = false ∧ s.phase.isRx = true ∧
      symbolCode s.busyTick s.input.sample = some (symCode 2 .active 3) ∧
      decodeSym (symCode 2 .active 3) = .ok .aLong) ∧
    ∃ s : State, s.input.rst = false ∧ s.phase.isRx = true ∧
      symbolCode s.busyTick s.input.sample = none :=
  ⟨⟨pulse .active 161 .passive, by decide⟩, ⟨pulse .active 161 .active, by decide⟩⟩

theorem witness_FetchedWordRunsNext :
    decodeTableWord 8 0x01 = some .recv ∧ decodeTableWord 6 0x2D = some .aHold ∧
    decodeTableWord 8 0x0C = some (.resOkOrBytes 12) := by decide

theorem witness_TimerCountsRestartsOrStands :
    (∃ s t : State, s.input.rst = false ∧ step s = .next t ∧ s.phase ≠ .idle) ∧
    ∃ s t : State, s.input.rst = false ∧ step s = .next t ∧ s.phase = .idle := by
  obtain ⟨t, ht, -⟩ := next_of test_wait_timeout_not_before
  obtain ⟨u, hu, -⟩ := next_of test_recv
  exact ⟨⟨_, t, by decide, ht, by decide⟩, ⟨_, u, by decide, hu, by decide⟩⟩

/-- Reads of the first and last byte of the buffer and of each register. -/
theorem witness_IdleReadReturnsRegister :
    [0x00, 0x0B, 0x10, 0x11, 0x12, 0x13, 0x14, 0x15].all (fun a : BitVec 5 =>
      let s := blk .idle 0 (host (.rd a))
      s.input.rst == false && s.phase == .idle && s.input.access == some (.rd a) &&
        (decide (a.toNat ≤ 11) || decide (0x10 ≤ a))) = true := by decide

/-- Writes to the first and last byte of the buffer, to each register and to each end of the two
reserved ranges. -/
theorem witness_IdleWriteStoresRegister :
    [0x00, 0x0B, 0x10, 0x15, 0x12, 0x13, 0x14, 0x0C, 0x0F, 0x16, 0x1F].all (fun a : BitVec 5 =>
      let s := blk .idle 0 (host (.wr a 0xA5))
      s.input.rst == false && s.phase == .idle && s.input.access == some (.wr a 0xA5) &&
        a != 0x11) = true := by decide

theorem witness_BusyAccessDisturbsNothing :
    ∃ (s t : State) (i : TickIn) (rest : List TickIn), s.phase ≠ .idle ∧ i.rst = false ∧
      step { s with inputs := i :: rest } = .next t := by
  obtain ⟨t, ht, -⟩ := next_of test_wait_timeout_not_before
  exact ⟨blk .rxWait 98 (quiet .passive), t, quiet .passive, [], by decide, by decide, ht⟩

/-- In an operation, and at its command. -/
theorem witness_TimeoutMultiplierHasNoEffect :
    (∃ s t : State, s.input.rst = false ∧ s.phase ≠ .idle ∧ step s = .next t) ∧
    ∃ s t : State, s.input.rst = false ∧ s.phase = .idle ∧
      s.input.access = some (.wr 0x11 0x01) ∧ step s = .next t := by
  obtain ⟨t, ht, -⟩ := next_of test_wait_timeout_not_before
  obtain ⟨u, hu, -⟩ := next_of test_recv
  exact ⟨⟨_, t, by decide, by decide, ht⟩, ⟨_, u, by decide, by decide, by decide, hu⟩⟩

theorem witness_RecvIsAccepted :
    (∃ s : State, s.phase = .idle) ∧ ∃ s : State, s.phase ≠ .idle :=
  ⟨⟨blk .idle 0 (quiet .passive), by decide⟩, ⟨blk .txEof 0 (quiet .passive), by decide⟩⟩

/-- `LEN` at 12 and at 13, and a busy block. -/
theorem witness_XmitChecksLengthAndIsAccepted :
    (∃ s : State, s.phase = .idle ∧ 12 < s.len.toNat ∧ s.len = 13) ∧
    (∃ s : State, s.phase = .idle ∧ s.len.toNat ≤ 12 ∧ s.len = 12) ∧
    ∃ s : State, s.phase ≠ .idle :=
  ⟨⟨{ blk .idle 0 (quiet .passive) with len := 13 }, by decide⟩,
   ⟨{ blk .idle 0 (quiet .passive) with len := 12 }, by decide⟩,
   ⟨blk .rxBit 0 (quiet .passive), by decide⟩⟩

theorem witness_CrcStoresChecksumOfFrame :
    (∃ s : State, s.phase = .idle ∧ s.len.toNat ≤ 12 ∧ s.len = 12) ∧
    (∃ s : State, s.phase ≠ .idle) ∧ ∃ s : State, s.phase = .idle ∧ 12 < s.len.toNat :=
  ⟨⟨{ blk .idle 0 (quiet .passive) with len := 12 }, by decide⟩,
   ⟨blk .txBit 0 (quiet .passive), by decide⟩,
   ⟨{ blk .idle 0 (quiet .passive) with len := 13 }, by decide⟩⟩

/-- The reserved bytes on either side of the commands. -/
theorem witness_ReservedCommandChangesNothing :
    ∀ v ∈ [(0x00 : Byte), 0x04, 0xFF], v ≠ 0x01 ∧ v ≠ 0x02 ∧ v ≠ 0x03 ∧
      (blk .idle 0 (host (.wr 0x11 v))).input.rst = false ∧
      (blk .idle 0 (host (.wr 0x11 v))).phase = .idle ∧
      (blk .idle 0 (host (.wr 0x11 v))).input.access = some (.wr 0x11 v) := by decide

theorem witness_CrcBitFourCases :
    (0x80 : Byte).msb = true ∧ (0x7F : Byte).msb = false := by decide

/-- Two blocks that agree on the one byte of the frame and differ in the next byte. -/
theorem witness_CrcDependsOnFrameAlone :
    ∃ s s' t t' : State, s.phase = .idle ∧ s'.phase = .idle ∧ s.len = s'.len ∧ s.len.toNat ≤ 12 ∧
      (∀ i, i < s.len.toNat → s.fbByte i = s'.fbByte i) ∧ s.fbByte 1 ≠ s'.fbByte 1 ∧
      exec .crc s = .next t ∧ exec .crc s' = .next t' := by
  refine ⟨{ blk .idle 0 (quiet .passive) with len := 1, fb := [(0, 0x8D), (1, 0x00)] },
    { blk .idle 0 (quiet .passive) with len := 1, fb := [(0, 0x8D), (1, 0x01)] },
    _, _, rfl, rfl, rfl, by decide, ?_, by decide, rfl, rfl⟩
  decide

theorem witness_NoDataCompletes : Instr.waitTimeout ∈ [Instr.waitTimeout, .resNodata] := by decide

theorem witness_BusErrorCompletes :
    Instr.resBuserror ∈
      [Instr.sofTooshort, .sofToolong, .pTooshort, .aTooshort, .resBuserror] := by decide

theorem witness_EndOfDataCompletes : Instr.aHold ∈ [Instr.pHold, .aHold] := by decide

/-- Code 0 in an `XMIT`, code 0 in a `RECV`, code 12. -/
theorem witness_SuccessCodeCompletes :
    (blk .txEof 0 (quiet .passive)).phase.isTx = true ∧
    (blk .rxBit 0 (quiet .passive)).phase.isTx = false ∧ (12 : BitVec 7) ≠ 0 := by decide

/-- The eight symbols that carry a bit, at the first and the last bit before the eighth. -/
theorem witness_DataPulseShiftsBit :
    [Instr.pShort, .pMid, .pLong, .pOver, .aShort, .aMid, .aLong, .aOver].all (fun i =>
      (Claims.symBit i).isSome) = true ∧
    (∃ s : State, s.nbits.toNat = 0) ∧ ∃ s : State, s.nbits.toNat = 6 :=
  ⟨by decide, ⟨blk .rxBit 0 (quiet .passive), by decide⟩,
   ⟨{ blk .rxBit 0 (quiet .passive) with nbits := 6 }, by decide⟩⟩

/-- The eighth bit of the first and of the eleventh byte. -/
theorem witness_EighthBitStoresByte :
    ∀ n ∈ [(0 : BitVec 4), 10], ∃ s : State, Claims.symBit .pShort = some (true, .active) ∧
      s.nbits.toNat = 7 ∧ s.nbytes = n ∧ s.nbytes.toNat ≤ 10 := by
  intro n hn
  refine ⟨{ blk .rxBit 0 (quiet .passive) with nbits := 7, nbytes := n }, rfl, rfl, rfl, ?_⟩
  revert n; decide

theorem witness_TwelfthByteCompletes :
    ∃ s : State, Claims.symBit .aLong = some (true, .passive) ∧ s.nbits.toNat = 7 ∧
      s.nbytes.toNat = 11 :=
  ⟨{ blk .rxBit 0 (quiet .passive) with nbits := 7, nbytes := 11 }, by decide⟩

theorem witness_StoreBeyondBufferStops :
    ∃ s : State, Claims.symBit .aOver = some (false, .passive) ∧ s.nbits.toNat = 7 ∧
      12 ≤ s.nbytes.toNat :=
  ⟨{ blk .rxBit 0 (quiet .passive) with nbits := 7, nbytes := 12 }, by decide⟩

/-- Instructions of each kind the clauses name, each answering a next state: those that complete, those
that write `RESULT` without completing, those that do neither, in both cases of `XMIT` and of a bit. -/
theorem witness_InstructionsLeaveTheRest :
    let s := { blk .idle 0 (quiet .passive) with nbits := 7, len := 13 }
    let u := { pulse .active 100 .passive with nbits := 7, nbytes := 11 }
    [Instr.recv, .xmit, .crc, .cmdReserved 0x04, .waitActivity, .sofOk, .pShort, .aHold,
      .resNodata, .resDataerror].all (fun i => nextIs (exec i s) fun _ => true) = true ∧
    Claims.completes s .aHold = true ∧ Claims.completes s .pShort = false ∧
    Claims.completes u .aLong = true ∧ Claims.writesResult s .xmit = true ∧
    Claims.writesResult u .xmit = false ∧ Claims.writesResult s .crc = false ∧
    Claims.writesResult s (.cmdReserved 0x04) = false ∧ (Claims.symBit .pShort).isSome = true ∧
    nextIs (exec .aLong u) (fun _ => true) = true := by decide

/-- Activity, the time-out at its tick, one tick before. -/
theorem witness_WaitPhaseStep :
    [blk .rxWait 0 (quiet .active), blk .rxWait 99 (quiet .passive),
      blk .rxWait 98 (quiet .passive)].all (fun s => s.input.rst == false && s.phase == .rxWait)
      = true ∧
    (blk .rxWait 99 (quiet .passive)).nextTicks = 100 ∧
    (blk .rxWait 98 (quiet .passive)).nextTicks = 99 := by decide

/-- The upper end of the window reached and not, below the lower end and at it. -/
theorem witness_SofPhaseStep :
    [blk .rxSof 238 (quiet .active), blk .rxSof 237 (quiet .active), blk .rxSof 161 (quiet .passive),
      blk .rxSof 162 (quiet .passive)].all (fun s => s.input.rst == false && s.phase == .rxSof)
      = true ∧
    (blk .rxSof 238 (quiet .active)).nextTicks = 239 ∧
    (blk .rxSof 237 (quiet .active)).nextTicks = 238 ∧
    (blk .rxSof 161 (quiet .passive)).nextTicks = 162 ∧
    (blk .rxSof 162 (quiet .passive)).nextTicks = 163 := by decide

/-- End of data on a run of either level, a run that goes on, a pulse that is too short. -/
theorem witness_BitPhaseEndsOrContinues :
    [pulse .passive 162 .passive, pulse .active 162 .active, pulse .active 161 .active,
      pulse .active 32 .passive].all (fun s => s.input.rst == false && s.phase == .rxBit) = true ∧
    (pulse .active 162 .active).nextTicks = 163 ∧ (pulse .active 161 .active).nextTicks = 162 ∧
    (pulse .active 32 .passive).nextTicks = 33 := by decide

theorem witness_BitPhaseTakesBitOfPulse :
    [pulse .passive 33 .active, pulse .active 162 .passive].all (fun s =>
      s.input.rst == false && s.phase == .rxBit && s.input.sample != s.ref &&
        decide (s.params.rxShortMin ≤ s.nextTicks) && decide (s.nbits.toNat < 7)) = true := by decide

/-- The eighth bit of the first byte, and of the twelfth. -/
theorem witness_BitPhaseStoresWholeBytes :
    [{ pulse .passive 33 .active with nbits := 7 },
      { pulse .active 96 .passive with nbits := 7, nbytes := 11 }].all (fun s =>
      s.input.rst == false && s.phase == .rxBit && s.input.sample != s.ref &&
        decide (s.params.rxShortMin ≤ s.nextTicks) && s.nbits == 7 &&
        decide (s.nbytes.toNat ≤ 11)) = true := by decide

theorem witness_ReceiveLeavesTheRest :
    ∃ s t : State, s.input.rst = false ∧ s.phase.isRx = true ∧ step s = .next t ∧
      t.nbytes = s.nbytes + 1 := by
  obtain ⟨t, ht, hp⟩ := next_of test_eighth_bit
  simp only [Bool.and_eq_true, beq_iff_eq] at hp
  exact ⟨_, t, by decide, by decide, ht, by rw [hp.1.2]; decide⟩

theorem witness_IdleWaitStep :
    (blk .txIdle 279 other).input.sample = .active ∧
    (blk .txIdle 279 (quiet .passive)).nextTicks = 280 ∧
    (blk .txIdle 278 (quiet .passive)).nextTicks = 279 ∧
    (blk .txIdle 278 (quiet .passive)).input.rst = false := by decide

/-- The SOF before and at its end, a collision, the two ways of none, the end of frame. -/
theorem witness_TransmitPhaseSteps :
    (blk .txSof 198 other).nextTicks < 200 ∧ (blk .txSof 199 other).nextTicks = 200 ∧
    ((blk .txBit 63 other).drv = .passive ∧ (blk .txBit 63 other).input.sample = .active) ∧
    (blk .txBit 63 (quiet .passive)).input.sample = .passive ∧
    { blk .txBit 63 other with drv := .active }.drv = .active ∧
    (blk .txEof 279 other).nextTicks = 280 ∧ (blk .txEof 279 other).input.rst = false := by decide

/-- The end of the frame, the first bit of a byte, a bit within a byte, the last bit of a byte. -/
theorem witness_NextSlotSendsNextBit :
    (∃ s : State, s.nbytes.toNat = s.len.toNat) ∧
    (∃ s : State, s.nbytes.toNat ≠ s.len.toNat ∧ s.nbits = 0 ∧ s.nbytes.toNat = 11) ∧
    (∃ s : State, s.nbytes.toNat ≠ s.len.toNat ∧ s.nbits = 1) ∧
    ∃ s : State, s.nbytes.toNat ≠ s.len.toNat ∧ s.nbits = 7 :=
  ⟨⟨{ blk .txBit 0 (quiet .passive) with nbytes := 12, len := 12 }, by decide⟩,
   ⟨{ blk .txBit 0 (quiet .passive) with nbytes := 11, len := 12 }, by decide⟩,
   ⟨{ blk .txBit 0 (quiet .passive) with nbits := 1, len := 12 }, by decide⟩,
   ⟨{ blk .txBit 0 (quiet .passive) with nbits := 7, len := 12 }, by decide⟩⟩

theorem witness_SampleIgnoredWhileDriving :
    (quiet .passive).rst = false ∧ (blk .txSof 0 other).phase = .txSof ∧
    (blk .txEof 0 other).phase = .txEof ∧
    ({ blk .txBit 0 other with drv := .active }.phase = .txBit ∧
      { blk .txBit 0 other with drv := .active }.drv = .active) := by decide

/-- A second collision, after a transmit that ended in one. -/
theorem witness_CollisionNeedsAnotherNode :
    ∃ s t : State, s.input.rst = false ∧ s.phase.isTx = true ∧ s.BusReadback ∧ step s = .next t ∧
      t.phase = .idle ∧ t.resultTag = some (.error .busError) ∧
      s.resultTag = some (.error .busError) := by
  have h : nextIs (step { blk .txBit 9 other with resultTag := some (.error .busError) }) (fun t =>
      t.phase == .idle && t.resultTag == some (.error .busError)) = true := by decide
  obtain ⟨t, ht, hp⟩ := next_of h
  simp only [Bool.and_eq_true, beq_iff_eq] at hp
  exact ⟨_, t, by decide, by decide, by unfold State.BusReadback; decide, ht, hp.1, hp.2, rfl⟩

theorem witness_TransmitLeavesTheRest :
    ∃ s t : State, s.input.rst = false ∧ s.phase.isTx = true ∧ step s = .next t ∧
      t.phase ≠ .idle := by
  obtain ⟨t, ht, hp⟩ := next_of test_first_slot
  simp only [Bool.and_eq_true, beq_iff_eq] at hp
  exact ⟨_, t, by decide, by decide, ht, by rw [hp.1.1.1.1]; decide⟩

/-- A receive that has stored one byte. -/
def midReceive : State :=
  { pulse .passive 33 .active with fb := [(0, 0x8D)], nbytes := 1, nbits := 3, shreg := 0x05 }

/-- The invariant holds of a receive in progress. -/
theorem midReceive_inv : midReceive.Inv := by
  constructor
  all_goals first
    | decide
    | exact (rfl : midReceive.result = 0x00)

/-- A transmit in its third slot, `P128` of 0x8D. -/
def midTransmit : State :=
  { blk .txBit 100 (quiet .passive) with
    fb := [(0, 0x8D)], len := 1, nbits := 3, shreg := 0x68, dur := 128 }

/-- The invariant holds of a transmit in progress. -/
theorem midTransmit_inv : midTransmit.Inv := by
  constructor
  all_goals first
    | decide
    | exact (rfl : midTransmit.result = 0x00)

theorem witness_StepKeepsInvariant :
    (∃ s t : State, s.Inv ∧ s.phase = .rxBit ∧ step s = .next t) ∧
    ∃ s t : State, s.Inv ∧ s.phase = .txBit ∧ step s = .next t := by
  obtain ⟨t, ht, -⟩ := next_of (show nextIs (step midReceive) (fun _ => true) = true by decide)
  obtain ⟨u, hu, -⟩ := next_of (show nextIs (step midTransmit) (fun _ => true) = true by decide)
  exact ⟨⟨_, t, midReceive_inv, rfl, ht⟩, ⟨_, u, midTransmit_inv, rfl, hu⟩⟩

theorem witness_StepNeverStops : ∃ s : State, s.Inv ∧ s.phase = .rxBit :=
  ⟨midReceive, midReceive_inv, rfl⟩

theorem witness_TimerNeverWraps :
    ∃ s t : State, s.params.WF1 ∧ s.Inv ∧ s.TimerBounded ∧ step s = .next t ∧ s.phase ≠ .idle := by
  obtain ⟨u, hu, -⟩ := next_of (show nextIs (step midTransmit) (fun _ => true) = true by decide)
  exact ⟨_, u, by decide, midTransmit_inv, by unfold State.TimerBounded; decide, hu, by decide⟩

theorem witness_ParametersNeverChange : ∃ s t : State, step s = .next t := by
  obtain ⟨t, ht, -⟩ := next_of test_recv
  exact ⟨_, t, ht⟩

theorem witness_PhaseChangesAreListed :
    ∃ s t : State, s.input.rst = false ∧ step s = .next t ∧ t.phase ≠ s.phase := by
  obtain ⟨t, ht, hp⟩ := next_of test_wait_activity
  simp only [Bool.and_eq_true, beq_iff_eq] at hp
  exact ⟨_, t, by decide, ht, by rw [hp.1]; decide⟩

/-- Steps in which each of the five registers changes, `DRV` both ways. -/
theorem witness_RegistersHaveNamedWriters :
    nextIs (step (blk .idle 0 (host (.wr 0x10 5)))) (fun t => t.len != 0) &&
    nextIs (step (blk .idle 0 (host (.wr 0x15 5)))) (fun t => t.tmomult != 25) &&
    nextIs (step { blk .idle 0 (host (.wr 0x11 3)) with crcout := 0xFF }) (fun t => t.crcout != 0xFF) &&
    nextIs (step { blk .idle 0 (host (.wr 0x11 2)) with len := 13 }) (fun t => t.result != 0) &&
    nextIs (step (blk .rxSof 5 (quiet .passive))) (fun t => t.result != 0) &&
    nextIs (step (blk .txIdle 279 (quiet .passive))) (fun t => t.drv == .active) &&
    nextIs (step { blk .txBit 99 (quiet .passive) with drv := .active, len := 1, nbytes := 1 })
      (fun t => t.drv == .passive) = true := by decide

/-! Runs, with the small parameters. -/

/-- A block with the small parameters in phase `p` and with the given coming ticks. -/
def run (p : Phase) (ts : List TickIn) : State :=
  { State.reset with params := tiny, phase := p, trun := p != .idle, inputs := ts }

theorem run_coming (p : Phase) (ts : List TickIn) (h : ∀ t ∈ ts, t.rst = false) :
    (run p ts).Coming ts := ⟨⟨[], (List.append_nil ts).symm⟩, h⟩

theorem run_wait_inv (ts : List TickIn) : (run .rxWait ts).Inv := by
  constructor
  all_goals first
    | decide
    | exact (rfl : (run .rxWait ts).result = 0x00)
    | exact (rfl : (run .rxWait ts).trun = (run .rxWait ts).busy)
    | simp [run, State.reset, tiny, Phase.isRx, Phase.isTx]

theorem witness_SilentBusGivesNoData :
    ∃ (s : State) (ts : List TickIn), s.params.WF1 ∧ s.phase = .rxWait ∧ s.tcnt = 0 ∧ s.Coming ts ∧
      (∀ t ∈ ts, t.sample = .passive) ∧ ts.length = s.params.tNoData :=
  ⟨run .rxWait (List.replicate 4 (quiet .passive)), List.replicate 4 (quiet .passive), by decide,
    by decide, by decide, run_coming _ _ (by decide), by decide, by decide⟩

theorem witness_ReceiveAlwaysCompletes :
    ∃ (s : State) (ts : List TickIn), s.params.WF1 ∧ s.Inv ∧ s.TimerBounded ∧
      s.phase.isRx = true ∧ s.Coming ts ∧
      ts.length = s.params.tNoData + s.params.rxSofMax + 96 * s.params.rxEodMin +
        s.params.rxEodMin := by
  refine ⟨run .rxWait (List.replicate 201 (quiet .active)), List.replicate 201 (quiet .active),
    by decide, run_wait_inv _, ?_, rfl, run_coming _ _ ?_, ?_⟩
  · unfold State.TimerBounded; exact Nat.zero_lt_succ 3
  · intro t ht; rw [List.eq_of_mem_replicate ht]; rfl
  · rw [List.length_replicate]; rfl

theorem witness_BusyBusHoldsTransmitter :
    ∃ (s : State) (ts : List TickIn), s.params.WF1 ∧ s.phase = .txIdle ∧
      s.tcnt < s.params.rxIfsMin ∧ s.Coming ts ∧
      Claims.neverIdle s.params.rxIfsMin s.tcnt (ts.map (·.sample)) = true :=
  ⟨run .txIdle [quiet .passive, quiet .passive, other, quiet .passive],
    [quiet .passive, quiet .passive, other, quiet .passive], by decide, by decide, by decide,
    run_coming _ _ (by decide), by decide⟩

/-- A frame of one byte on its way out, the bus giving back what is driven. -/
def sender : State :=
  { run .txIdle [] with
    len := 1, fb := [(0, 0x8D)],
    inputs := (Claims.xmitWave tiny 0 [0x8D]).samples.map quiet }

theorem sender_inv : sender.Inv := by
  constructor
  all_goals first
    | decide +kernel
    | exact (rfl : sender.result = 0x00)

/-- The other end: the same levels, sampled by a block that waits. -/
def receiver : State := run .rxWait ((Claims.xmitWave tiny 0 [0x8D]).samples.map quiet)

theorem witness_TransmitSendsWaveform :
    sender.params.WF1 ∧ sender.Inv ∧ sender.phase = .txIdle ∧ sender.tcnt < sender.params.rxIfsMin ∧
    Claims.quietBus (Claims.xmitWave sender.params sender.tcnt
      (sender.fbBytes sender.len.toNat)).samples.length sender = true :=
  ⟨by decide, sender_inv, by decide, by decide, by decide +kernel⟩

/-- The rest of a transmit, checked by running it. -/
theorem sendsUntil_of {n : Nat} {s : State}
    (h : ((List.range n).all fun k => nextIs (Host.Core.run core k s) fun u => u.phase.isTx) = true)
    (hn : nextIs (Host.Core.run core n s) (fun t =>
      t.phase == .idle && t.resultTag == some .ok) = true) : Claims.sendsUntil n s := by
  refine ⟨fun k hk => next_of (List.all_eq_true.1 h k (List.mem_range.2 hk)), ?_⟩
  obtain ⟨t, ht, hp⟩ := next_of hn
  simp only [Bool.and_eq_true, beq_iff_eq] at hp
  exact ⟨t, ht, hp⟩

/-- The same frame from the first tick of its SOF, where idle was confirmed in the tick before. -/
def senderInSof : State :=
  { run .txSof [] with
    len := 1, fb := [(0, 0x8D)], drv := .active,
    inputs := (Claims.xmitWave tiny 3 [0x8D]).samples.map quiet }

theorem senderInSof_inv : senderInSof.Inv := by
  constructor
  all_goals first
    | decide +kernel
    | exact (rfl : senderInSof.result = 0x00)

/-- A receiver that starts while the transmitter waits, and one that starts in the tick that confirms
idle. -/
theorem witness_LoopbackReproducesFrame :
    ∀ p ∈ [Phase.txIdle, Phase.txSof], ∃ (x y : State) (n : Nat) (ts : List TickIn), x.phase = p ∧
      x.params = y.params ∧ x.params.WF1 ∧ x.params.WF2 ∧ x.params.WF3 ∧ x.params.WF4 ∧
      x.params.WF5 ∧ x.params.WF6 ∧ x.params.WF7 ∧ x.Inv ∧
      (x.phase = .txIdle ∨ x.phase = .txSof ∧ x.tcnt = 0) ∧ 1 ≤ x.len.toNat ∧
      Claims.sendsUntil n x ∧ y.Inv ∧ y.phase = .rxWait ∧ y.tcnt = 0 ∧
      ((drvTrace n x).takeWhile (· == .passive)).length < y.params.tNoData ∧ y.Coming ts ∧
      ts.map (·.sample) = drvTrace n x := by
  have hr : ∀ w : List Level, ∀ t ∈ w.map quiet, t.rst = false := by
    intro w t ht
    obtain ⟨lv, -, rfl⟩ := List.mem_map.1 ht
    rfl
  intro p hp
  simp only [List.mem_cons, List.not_mem_nil, or_false] at hp
  rcases hp with rfl | rfl
  · exact ⟨sender, receiver, 20, _, rfl, rfl, by decide, by decide, by decide, by decide, by decide,
      by decide, by decide, sender_inv, .inl rfl, by decide,
      sendsUntil_of (by decide +kernel) (by decide +kernel), run_wait_inv _, rfl, rfl,
      by decide +kernel, run_coming _ _ (hr _), by decide +kernel⟩
  · exact ⟨senderInSof, run .rxWait ((Claims.xmitWave tiny 3 [0x8D]).samples.map quiet), 17, _, rfl,
      rfl, by decide, by decide, by decide, by decide, by decide, by decide, by decide,
      senderInSof_inv, .inr ⟨rfl, rfl⟩, by decide,
      sendsUntil_of (by decide +kernel) (by decide +kernel), run_wait_inv _, rfl, rfl,
      by decide +kernel, run_coming _ _ (hr _), by decide +kernel⟩

end Sys2Proof.Tests
end

section
/-! SUPPORT. The reset state (spec: `10_state.md` R38). `STATUS` is no stored register but a view of
`PHASE` (R35), so its value at reset follows from the phase alone. -/

namespace Sys2Proof.Proofs

open Sys2Proof.Machine

/-- R35: the view of `PHASE` an idle block shows. -/
theorem status_eq_zero_of_idle {s : State} (h : s.phase = .idle) : s.status = 0x00 := by
  have hb : s.busy = false := by simp [State.busy, h]
  simp [State.status, hb]

/-- Settles O7: the stored registers are the fields of `State.reset`, and `STATUS` is the view an idle
block shows. -/
theorem resetStateValues : Obligations.ResetStateValues :=
  have hidle : State.reset.phase = .idle := rfl
  ⟨hidle, rfl, rfl, rfl, rfl, rfl, rfl, rfl, rfl, rfl, rfl, rfl, rfl, status_eq_zero_of_idle hidle⟩

end Sys2Proof.Proofs
end

section
/-! SUPPORT. The result byte (spec: `30_encoding.md` R68): bit 7 is the error flag, bits 6:0 the
payload, so a byte count keeps its value as long as it fits seven bits. -/

namespace Sys2Proof.Proofs

open Sys2Proof.Machine

/-- R68: the error flag of a byte count is clear, whatever the count. -/
@[simp] theorem enc_bytes_msb (n : Nat) : (enc (.bytes n)).msb = false :=
  calc (enc (.bytes n)).msb
    _ = (0#1).msb := BitVec.msb_append (x := 0#1) (y := BitVec.ofNat 7 n)
    _ = false := rfl

/-- R68: the code of a byte count that fits the payload is the count itself. -/
theorem enc_bytes_toNat {n : Nat} (h : n < 128) : (enc (.bytes n)).toNat = n :=
  calc (enc (.bytes n)).toNat
    _ = (0#1).toNat <<< 7 ||| (BitVec.ofNat 7 n).toNat := BitVec.toNat_append _ _
    _ = (BitVec.ofNat 7 n).toNat := Nat.zero_or _
    _ = n := Nat.mod_eq_of_lt h

/-- Settles O4: a count of at most 12 fits the seven bits of the payload; the other rows of the table
are single codes. -/
theorem resultCodesAreAsTabled : Obligations.ResultCodesAreAsTabled :=
  ⟨rfl, fun n hn => ⟨enc_bytes_toNat (by omega), enc_bytes_msb n⟩, rfl, rfl, rfl⟩

end Sys2Proof.Proofs
end

section
/-! SUPPORT. The frame checksum and the `CRC` command (spec: `43_checksum.md` R146, R150, R153): the
command hands `checksum` the first `LEN` bytes of the buffer and no other part of the state. -/

namespace Sys2Proof.Proofs

open Sys2Proof.Machine

/-- R146: the update for an incoming 1. -/
theorem crcBit_true (c : Byte) :
    crcBit c true = (c <<< 1 ||| 0x01) ^^^ (if c.msb then 0x01 else 0x1C) := rfl

/-- R146: the update for an incoming 0. -/
theorem crcBit_false (c : Byte) :
    crcBit c false = c <<< 1 ^^^ (if c.msb then 0x1D else 0x00) := rfl

/-- Settles O22: the incoming bit picks the update, the top bit its constant. -/
theorem crcBitFourCases : Obligations.CrcBitFourCases := by
  intro c
  refine ⟨?one_top, ?one_clear, ?zero_top, ?zero_clear⟩
  case one_top | one_clear => intro h; simp [crcBit_true, h]
  case zero_top | zero_clear => intro h; simp [crcBit_false, h]

/-- Blocks that agree on the first `n` bytes of the buffer have the same list of them. -/
theorem fbBytes_congr {s t : State} {n : Nat} (h : ∀ i, i < n → s.fbByte i = t.fbByte i) :
    s.fbBytes n = t.fbBytes n :=
  List.map_congr_left fun i hi => h i (List.mem_range.mp hi)

/-- R150: `CRC` accepted, with a `LEN` the buffer holds. -/
theorem exec_crc_of_idle {s : State} (hp : s.phase = .idle) (hl : s.len.toNat ≤ 12) :
    exec .crc s = .next { s with crcout := checksum (s.fbBytes s.len.toNat) } :=
  if_pos ⟨hp, hl⟩

/-- R150: what an accepted `CRC` leaves in `CRCOUT`. -/
theorem crcout_of_exec_crc {s t : State} (hp : s.phase = .idle) (hl : s.len.toNat ≤ 12)
    (h : exec .crc s = .next t) : t.crcout = checksum (s.fbBytes s.len.toNat) := by
  rw [exec_crc_of_idle hp hl, Host.Outcome.next.injEq] at h
  rw [← h]

/-- Settles O25: `CRCOUT` is the checksum of the first `LEN` bytes, and the two blocks agree on `LEN`
and on these bytes. -/
theorem crcDependsOnFrameAlone : Obligations.CrcDependsOnFrameAlone := by
  intro s s' t t' hp hp' hlen hle hfb ht ht'
  have hle' : s'.len.toNat ≤ 12 := hlen ▸ hle
  calc t.crcout
    _ = checksum (s.fbBytes s.len.toNat) := crcout_of_exec_crc hp hle ht
    _ = checksum (s'.fbBytes s.len.toNat) := by rw [fbBytes_congr hfb]
    _ = checksum (s'.fbBytes s'.len.toNat) := by rw [hlen]
    _ = t'.crcout := (crcout_of_exec_crc hp' hle' ht').symm

end Sys2Proof.Proofs
end

section
/-! SUPPORT. The three code spaces, decoded and encoded (spec: `30_encoding.md` R61, R66 to R69). -/

namespace Sys2Proof.Proofs

open Sys2Proof.Machine

/-- R67: a byte that is none of the three commands is the reserved command of that byte. -/
theorem decodeCmd_of_reserved {v : Byte} (h1 : v ≠ 0x01) (h2 : v ≠ 0x02) (h3 : v ≠ 0x03) :
    decodeCmd v = .cmdReserved v := by
  rw [decodeCmd, if_neg h1, if_neg h2, if_neg h3]

/-- R68: the byte of a count of at most 12 decodes to that count. -/
theorem decodeRes_zeroExtend {n : BitVec 7} (h : n.toNat ≤ 12) :
    decodeRes (n.zeroExtend 8) = .ok (.resOkOrBytes n) := by
  have hn : (n.zeroExtend 8).toNat = n.toNat := BitVec.toNat_setWidth_of_le (by decide)
  have hmsb : (n.zeroExtend 8).msb = false := by
    rw [BitVec.msb_eq_false_iff_two_mul_lt, hn]; omega
  have hpay : (n.zeroExtend 8).extractLsb' 0 7 = n := by
    apply BitVec.eq_of_toNat_eq
    simp only [BitVec.extractLsb'_toNat, hn]; omega
  rw [decodeRes, hmsb, if_neg Bool.false_ne_true, if_pos (hn.trans_le h), hpay]

/-- The word of a well-formed instruction decodes to it, in its own code space. -/
theorem decode_encodeWord {i : Instr} (h : i.wf = true) :
    decode i.space (encodeWord i) = .ok i := by
  cases i with
  | cmdReserved v =>
    simp only [Instr.wf, Bool.and_eq_true, bne_iff_ne] at h
    obtain ⟨⟨h1, h2⟩, h3⟩ := h
    exact congrArg Except.ok (decodeCmd_of_reserved h1 h2 h3)
  | resOkOrBytes n => exact decodeRes_zeroExtend (of_decide_eq_true h)
  | _ => rfl

theorem decodeBytes_cons_of_ok {sp : Space} {w : Byte} {i : Instr} (rest : List Byte)
    (h : decode sp w = .ok i) : decodeBytes sp (w :: rest) = .ok (i, rest) := by
  rw [decodeBytes, h]

/-- Settles O1: an instruction has one word, so the bytes after it are the bytes that follow. -/
theorem decodeOfEncodeIsIdentity : Obligations.DecodeOfEncodeIsIdentity :=
  fun _ rest h => decodeBytes_cons_of_ok rest (decode_encodeWord h)

/-- R66, R67: the command of a byte has that byte as its word. -/
theorem decodeCmd_spec (v : Byte) :
    (decodeCmd v).wf = true ∧ (decodeCmd v).space = .cmd ∧ encodeWord (decodeCmd v) = v := by
  by_cases h1 : v = 0x01
  · subst h1; exact ⟨rfl, rfl, rfl⟩
  by_cases h2 : v = 0x02
  · subst h2; exact ⟨rfl, rfl, rfl⟩
  by_cases h3 : v = 0x03
  · subst h3; exact ⟨rfl, rfl, rfl⟩
  rw [decodeCmd_of_reserved h1 h2 h3]
  exact ⟨by simp only [Instr.wf, Bool.and_eq_true, bne_iff_ne]; exact ⟨⟨h1, h2⟩, h3⟩, rfl, rfl⟩

/-- A symbol code and the class it stands for (R61): the code is the class's word. -/
def IsSymbolWord (i : Instr) (w : BitVec 6) : Prop :=
  i.wf = true ∧ i.space = .sym ∧ encodeWord i = w.zeroExtend 8

/-- One row of R61's table: the code is that of the row, or of a row below it. -/
theorem isSymbolWord_of_row {w c : BitVec 6} {i j : Instr} {below : Except DecodeError Instr}
    (hrow : IsSymbolWord j c) (hbelow : below = .ok i → IsSymbolWord i w)
    (h : (if w = c then .ok j else below) = .ok i) : IsSymbolWord i w := by
  by_cases hw : w = c
  · rw [if_pos hw] at h; cases h; exact hw ▸ hrow
  · rw [if_neg hw] at h; exact hbelow h

/-- R61: the class of a symbol code has that code as its word, row by row. -/
theorem decodeSym_spec {w : BitVec 6} {i : Instr} (h : decodeSym w = .ok i) :
    IsSymbolWord i w := by
  unfold decodeSym at h
  revert h
  iterate 17 refine isSymbolWord_of_row ⟨rfl, rfl, rfl⟩ ?_
  exact nofun

/-- A byte whose two high bits are clear is its low six bits. -/
theorem zeroExtend_extractLsb'_of_high_zero {w : Byte} (h : w.extractLsb' 6 2 = 0) :
    (w.extractLsb' 0 6).zeroExtend 8 = w := by
  have hw : (w.extractLsb' 6 2).toNat = 0 := by rw [h]; rfl
  apply BitVec.eq_of_toNat_eq
  simp only [BitVec.extractLsb'_toNat, BitVec.toNat_setWidth, Nat.shiftRight_eq_div_pow,
    BitVec.zeroExtend] at hw ⊢
  omega

/-- R68, R69: the result of a byte has that byte as its word. -/
theorem decodeRes_spec {w : Byte} {i : Instr} (h : decodeRes w = .ok i) :
    i.wf = true ∧ i.space = .res ∧ encodeWord i = w := by
  unfold decodeRes at h
  split at h
  · repeat'
      split at h
      next hw => cases h; subst hw; exact ⟨rfl, rfl, rfl⟩
    cases h
  · split at h
    next hn =>
      have hpay : (w.extractLsb' 0 7).toNat = w.toNat := by
        simp only [BitVec.extractLsb'_toNat]; omega
      cases h
      refine ⟨decide_eq_true (hpay.trans_le hn), rfl, BitVec.eq_of_toNat_eq ?_⟩
      exact (BitVec.toNat_setWidth_of_le (by decide)).trans hpay
    next => cases h

/-- Settles O2: in each space the decoder picks a row by comparing the byte with the row's word. -/
theorem decodedCodesEncodeBack : Obligations.DecodedCodesEncodeBack := by
  intro sp w i h
  cases sp with
  | cmd => cases h; exact decodeCmd_spec w
  | sym =>
    simp only [decode] at h
    split at h
    next hhigh =>
      obtain ⟨hwf, hsp, henc⟩ := decodeSym_spec h
      exact ⟨hwf, hsp, henc.trans (zeroExtend_extractLsb'_of_high_zero hhigh)⟩
    next => cases h
  | res => exact decodeRes_spec h

/-- Settles O3: eleven fixed words, each compared with the rows of its table. -/
theorem decodeOfSpecWords : Obligations.DecodeOfSpecWords :=
  ⟨rfl, rfl, rfl, rfl, rfl, rfl, rfl, rfl, rfl, rfl, rfl⟩

end Sys2Proof.Proofs
end

section
/-! SUPPORT. Lengths and levels of runs (spec: `30_encoding.md` R58 to R61): the bit of a sent pulse and
the class of a measured one. -/

namespace Sys2Proof.Proofs

open Sys2Proof.Machine

/-- Settles O5: a sent length lies in the window of its bit and, by WF4, in no other. -/
theorem bitvalInvertsTxdur : Obligations.BitvalInvertsTxdur := by
  intro P h2 h3 h4 lv b
  have hshort : ¬isLong P P.txShort := fun h => by omega
  have hlong : ¬isShort P P.txLong := fun h => by omega
  cases lv <;> cases b
  case passive.false => exact decide_eq_false hlong
  case passive.true => exact decide_eq_true h2
  case active.false => exact decide_eq_false hshort
  case active.true => exact decide_eq_true h3

/-- R61: the width field of a completed pulse by its length, the same for both levels once the windows
do not overlap. -/
theorem pulseWidth_spec {P : Params} (h4 : P.WF4) (h9 : P.WF9) (lv : Level) {d : Nat}
    (hd : P.rxShortMin ≤ d) :
    (d < P.rxShortMax → pulseWidth P lv d = 1) ∧
    (P.rxShortMax ≤ d → d ≤ P.rxLongMin → pulseWidth P lv d = 2) ∧
    (P.rxLongMin < d → d < P.rxLongMax → pulseWidth P lv d = 3) ∧
    (P.rxLongMax ≤ d → pulseWidth P lv d = 4) := by
  obtain ⟨-, hlong, -⟩ := h9
  have hd' : ¬d < P.rxShortMin := Nat.not_lt.mpr hd
  refine ⟨fun h => ?short, fun h h' => ?mid, fun h h' => ?long, fun h => ?above⟩
  case short =>
    have hS : isShort P d := ⟨hd, h⟩
    have hL : ¬isLong P d := fun hL => by omega
    cases lv <;> simp only [pulseWidth, if_neg hd', if_pos hS, if_neg hL]
  case mid =>
    have hS : ¬isShort P d := fun hS => by omega
    have hL : ¬isLong P d := fun hL => by omega
    cases lv <;> simp only [pulseWidth, if_neg hd', if_neg hS, if_neg hL, if_pos h']
  case long =>
    have hS : ¬isShort P d := fun hS => by omega
    have hL : isLong P d := ⟨h, h'⟩
    cases lv <;> simp only [pulseWidth, if_neg hd', if_neg hS, if_pos hL]
  case above =>
    have hS : ¬isShort P d := fun hS => by omega
    have hL : ¬isLong P d := fun hL => by omega
    have hM : ¬d ≤ P.rxLongMin := by omega
    cases lv <;> simp only [pulseWidth, if_neg hd', if_neg hS, if_neg hL, if_neg hM]

theorem pulseWidth_of_lt {P : Params} (lv : Level) {d : Nat} (hd : d < P.rxShortMin) :
    pulseWidth P lv d = 0 := if_pos hd

/-! The receiver's classification, phase by phase (R97 to R101). -/

theorem symbolCode_wait {s : State} (h : s.phase = .rxWait) (lv : Level) :
    symbolCode s lv = if lv = .active then some (symCode 0 .passive 1)
      else if s.params.tNoData ≤ s.tcnt then some (symCode 0 .passive 5) else none := by
  unfold symbolCode; rw [h]

theorem symbolCode_sof {s : State} (h : s.phase = .rxSof) (lv : Level) :
    symbolCode s lv = if lv = .active then
        if s.params.rxSofMax ≤ s.tcnt then some (symCode 1 .active 5) else none
      else if s.tcnt < s.params.rxSofMin then some (symCode 1 .active 0)
      else some (symCode 1 .active 1) := by
  unfold symbolCode; rw [h]

/-- R99: while the level stands, a run is end of data or goes on. -/
theorem symbolCode_run {s : State} (h : s.phase = .rxBit) :
    symbolCode s s.ref =
      if s.params.rxEodMin ≤ s.tcnt then some (symCode 2 s.ref 5) else none := by
  unfold symbolCode; rw [h]; exact if_pos rfl

/-- R100, R101: a change of the level completes a pulse. -/
theorem symbolCode_pulse {s : State} (h : s.phase = .rxBit) {lv : Level} (hl : lv ≠ s.ref) :
    symbolCode s lv = some (symCode 2 s.ref (pulseWidth s.params s.ref s.tcnt)) := by
  unfold symbolCode; rw [h]; exact if_neg hl

theorem measured_of_code {s : State} {lv : Level} {w : BitVec 6} {i : Instr}
    (h : symbolCode s lv = some w) (hw : decodeSym w = .ok i) : Claims.measured s lv = some i := by
  simp only [Claims.measured, h, Option.bind_some, hw]; rfl

theorem measured_of_none {s : State} {lv : Level} (h : symbolCode s lv = none) :
    Claims.measured s lv = none := by
  simp only [Claims.measured, h, Option.bind_none]

theorem measured_wait {s : State} (h : s.phase = .rxWait) :
    Claims.measured s .active = some .waitActivity ∧
    (s.params.tNoData ≤ s.tcnt → Claims.measured s .passive = some .waitTimeout) ∧
    (s.tcnt < s.params.tNoData → Claims.measured s .passive = none) := by
  have hc := symbolCode_wait h
  refine ⟨measured_of_code (hc .active) rfl, fun ht => ?timeout, fun ht => ?waiting⟩
  case timeout => exact measured_of_code ((hc .passive).trans (if_pos ht)) rfl
  case waiting => exact measured_of_none ((hc .passive).trans (if_neg (Nat.not_le.mpr ht)))

theorem measured_sof {s : State} (h : s.phase = .rxSof) :
    (s.tcnt < s.params.rxSofMin → Claims.measured s .passive = some .sofTooshort) ∧
    (s.params.rxSofMin ≤ s.tcnt → Claims.measured s .passive = some .sofOk) ∧
    (s.params.rxSofMax ≤ s.tcnt → Claims.measured s .active = some .sofToolong) ∧
    (s.tcnt < s.params.rxSofMax → Claims.measured s .active = none) := by
  have hc := symbolCode_sof h
  refine ⟨fun ht => ?short, fun ht => ?ok, fun ht => ?long, fun ht => ?on⟩
  case short => exact measured_of_code ((hc .passive).trans (if_pos ht)) rfl
  case ok => exact measured_of_code ((hc .passive).trans (if_neg (Nat.not_lt.mpr ht))) rfl
  case long => exact measured_of_code ((hc .active).trans (if_pos ht)) rfl
  case on => exact measured_of_none ((hc .active).trans (if_neg (Nat.not_le.mpr ht)))

/-- R99: what the receiver makes of a run whose level stands. -/
theorem measured_run {s : State} (h : s.phase = .rxBit) {i : Instr}
    (hi : decodeSym (symCode 2 s.ref 5) = .ok i) :
    (s.params.rxEodMin ≤ s.tcnt → Claims.measured s s.ref = some i) ∧
    (s.tcnt < s.params.rxEodMin → Claims.measured s s.ref = none) := by
  have hc := symbolCode_run h
  refine ⟨fun ht => ?hold, fun ht => ?on⟩
  case hold => exact measured_of_code (hc.trans (if_pos ht)) hi
  case on => exact measured_of_none (hc.trans (if_neg (Nat.not_le.mpr ht)))

/-- R100, R101: a completed pulse has the class of its level and width field. -/
theorem measured_pulse {s : State} (h : s.phase = .rxBit) {lv : Level} (hl : lv ≠ s.ref)
    {w : BitVec 3} {i : Instr} (hw : pulseWidth s.params s.ref s.tcnt = w)
    (hi : decodeSym (symCode 2 s.ref w) = .ok i) : Claims.measured s lv = some i :=
  measured_of_code (symbolCode_pulse h hl) (hw ▸ hi)

/-- R61: the classes of one level's runs by their length, given the rows of that level. -/
theorem measured_bit {s : State} (h4 : s.params.WF4) (h9 : s.params.WF9) (h : s.phase = .rxBit)
    {ref lv : Level} (hr : s.ref = ref) (hl : lv ≠ ref)
    {tooshort short mid long above hold : Instr}
    (h0 : decodeSym (symCode 2 ref 0) = .ok tooshort) (h1 : decodeSym (symCode 2 ref 1) = .ok short)
    (h2 : decodeSym (symCode 2 ref 2) = .ok mid) (h3 : decodeSym (symCode 2 ref 3) = .ok long)
    (h4' : decodeSym (symCode 2 ref 4) = .ok above) (h5 : decodeSym (symCode 2 ref 5) = .ok hold) :
    (s.tcnt < s.params.rxShortMin → Claims.measured s lv = some tooshort) ∧
    (s.params.rxShortMin ≤ s.tcnt →
      (s.tcnt < s.params.rxShortMax → Claims.measured s lv = some short) ∧
      (s.params.rxShortMax ≤ s.tcnt → s.tcnt ≤ s.params.rxLongMin →
        Claims.measured s lv = some mid) ∧
      (s.params.rxLongMin < s.tcnt → s.tcnt < s.params.rxLongMax →
        Claims.measured s lv = some long) ∧
      (s.params.rxLongMax ≤ s.tcnt → Claims.measured s lv = some above)) ∧
    (s.params.rxEodMin ≤ s.tcnt → Claims.measured s ref = some hold) ∧
    (s.tcnt < s.params.rxEodMin → Claims.measured s ref = none) := by
  subst hr
  refine ⟨fun ht => measured_pulse h hl (pulseWidth_of_lt _ ht) h0, fun ht => ?_, measured_run h h5⟩
  obtain ⟨hshort, hmid, hlong, habove⟩ := pulseWidth_spec h4 h9 s.ref ht
  exact ⟨fun a => measured_pulse h hl (hshort a) h1, fun a b => measured_pulse h hl (hmid a b) h2,
    fun a b => measured_pulse h hl (hlong a b) h3, fun a => measured_pulse h hl (habove a) h4'⟩

/-- Settles O6: each phase classifies by its own clauses, and in `RX_BIT` the two levels have the same
bounds with rows of their own. -/
theorem runClassesFollowTable : Obligations.RunClassesFollowTable := by
  intro s h4 _ h9
  refine ⟨measured_wait, fun hp => ?sof, fun hp hr => ?passive, fun hp hr => ?active⟩
  case sof =>
    obtain ⟨hshort, hok, hlong, hon⟩ := measured_sof hp
    exact ⟨hshort, fun ht _ => hok ht, hlong, hon⟩
  case passive => exact measured_bit h4 h9 hp hr (by decide) rfl rfl rfl rfl rfl rfl
  case active => exact measured_bit h4 h9 hp hr (by decide) rfl rfl rfl rfl rfl rfl

end Sys2Proof.Proofs
end

section
/-! SUPPORT. The checksum as division by one polynomial (spec: `43_checksum.md` R149 to R152). -/

namespace Sys2Proof.Proofs

open Sys2Proof.Machine

/-- A shifted register has a clear bit 0, so setting it is flipping it. -/
theorem shiftLeft_one_or_one (c : Byte) : c <<< 1 ||| (0x01 : Byte) = c <<< 1 ^^^ (0x01 : Byte) := by
  revert c; decide

/-- R149: the four constants of R146 are the polynomial, taken when the top bit and the incoming bit
differ. -/
theorem crcBit_eq_shift_xor (c : Byte) (b : Bool) :
    crcBit c b = c <<< 1 ^^^ (if (c.msb ^^ b) = true then 0x1D else 0x00) := by
  cases b
  · rw [crcBit_false, Bool.xor_false]
  · rw [crcBit_true, shiftLeft_one_or_one, BitVec.xor_assoc]
    cases c.msb <;> rfl

/-- R149: a step of the polynomial takes the top bit of what is added to the register as the incoming
bit, and shifts the rest of it along. -/
theorem polyStep_xor (c y : Byte) : Claims.polyStep (c ^^^ y) = crcBit c y.msb ^^^ y <<< 1 := by
  rw [Claims.polyStep, BitVec.shiftLeft_xor_distrib, BitVec.msb_xor, crcBit_eq_shift_xor]
  ac_rfl

/-- The first `k` bits of a byte, most significant first. -/
def firstBits (x : Byte) (k : Nat) : List Bool := (List.range k).map fun j => (x <<< j).msb

theorem firstBits_succ (x : Byte) (k : Nat) :
    firstBits x (k + 1) = firstBits x k ++ [(x <<< k).msb] := by
  simp only [firstBits, List.range_succ, List.map_append, List.map_cons, List.map_nil]

theorem bitsMsbFirst_eq_firstBits (x : Byte) : bitsMsbFirst x = firstBits x 8 := by
  revert x; decide

/-- R149: after `k` steps the register has taken in `k` bits, and the others are still to come. -/
theorem polyStep_iterate_xor (c x : Byte) (k : Nat) :
    Claims.polyStep^[k] (c ^^^ x) = (firstBits x k).foldl crcBit c ^^^ x <<< k := by
  induction k with
  | zero => simp [firstBits]
  | succ k ih =>
    rw [Function.iterate_succ_apply', ih, polyStep_xor, firstBits_succ, List.foldl_append,
      ← BitVec.shiftLeft_add]
    rfl

/-- R149: one byte update is eight steps of the polynomial. -/
theorem crcByte_eq_polyStep_iterate (c x : Byte) : crcByte c x = Claims.polyStep^[8] (c ^^^ x) := by
  have hall : x <<< 8 = 0#8 := BitVec.shiftLeft_eq_zero (by decide)
  rw [polyStep_iterate_xor, hall, BitVec.xor_zero, crcByte, bitsMsbFirst_eq_firstBits]

/-- Settles O23, bit by bit and byte by byte. -/
theorem crcIsPolynomialDivision : Obligations.CrcIsPolynomialDivision :=
  ⟨crcBit_eq_shift_xor, crcByte_eq_polyStep_iterate⟩

/-- Settles O24: adding the complement of the register leaves the register all ones, whatever it was,
and eight steps from there are a constant. -/
theorem checksumResidueIsConstant : Obligations.ChecksumResidueIsConstant := by
  refine ⟨rfl, fun m => ?_⟩
  have hones (c : Byte) : c ^^^ ~~~c = 0xFF :=
    BitVec.not_xor_right.symm.trans (congrArg (~~~·) BitVec.xor_self)
  calc checksum (m ++ [checksum m])
    _ = ~~~crcByte (m.foldl crcByte 0xFF) (~~~(m.foldl crcByte 0xFF)) := by
      rw [checksum, checksum, List.foldl_append]; rfl
    _ = ~~~Claims.polyStep^[8] 0xFF := by rw [crcByte_eq_polyStep_iterate, hones]
    _ = 0x3B := by decide

/-- Settles O20: the two conditions of R150 are the test `CRC` makes. -/
theorem crcStoresChecksumOfFrame : Obligations.CrcStoresChecksumOfFrame := by
  intro s
  refine ⟨exec_crc_of_idle, fun h => if_neg fun ⟨hp, hl⟩ => ?_⟩
  rcases h with hbusy | hlong
  · exact hbusy hp
  · omega

end Sys2Proof.Proofs
end

section
/-! SUPPORT. The meaning of each instruction and what it leaves alone (spec: `41_receiver.md` R96 to R106,
`42_transmitter.md` R121, `60_exceptions.md` R175 to R180). -/

namespace Sys2Proof.Proofs

open Sys2Proof.Machine

/-- R68: a byte count held in at most seven bits is its own code. -/
theorem enc_bytes_eq_setWidth {w : Nat} (n : BitVec w) (hw : w ≤ 7) :
    enc (.bytes n.toNat) = n.setWidth 8 := by
  have hlt : n.toNat < 128 := n.isLt.trans_le (Nat.pow_le_pow_right (by decide) hw)
  apply BitVec.eq_of_toNat_eq
  rw [enc_bytes_toNat hlt, BitVec.toNat_setWidth_of_le (by omega)]

/-- R180: what `finish` leaves is the completion with the code of its result. -/
theorem finish_eq_completed (r : Result) (s : State) : finish r s = Claims.completed (enc r) r s := rfl

/-- R99: the end of data completes with the whole bytes. -/
theorem finish_bytes_eq_completed (s : State) :
    finish (.bytes s.nbytes.toNat) s =
      Claims.completed (s.nbytes.setWidth 8) (.bytes s.nbytes.toNat) s := by
  rw [finish_eq_completed, enc_bytes_eq_setWidth _ (by decide)]

/-! ### Commands -/

/-- Settles O18: acceptance and refusal are the two branches of `RECV`. -/
theorem recvIsAccepted : Obligations.RecvIsAccepted :=
  fun _ => ⟨fun hp => if_pos hp, fun hp => if_neg hp⟩

/-- Settles O19: the phase is tested before the length. -/
theorem xmitChecksLengthAndIsAccepted : Obligations.XmitChecksLengthAndIsAccepted := by
  intro s
  refine ⟨fun hp hl => ?too_long, fun hp hl => ?accepted, fun hp => if_neg hp⟩
  case too_long => exact (if_pos hp).trans (if_pos hl)
  case accepted => exact (if_pos hp).trans (if_neg (Nat.not_lt.mpr hl))

/-! ### Completions -/

/-- Settles O26: both end in `finish` with `NoData`, whose code is 0x81. -/
theorem noDataCompletes : Obligations.NoDataCompletes := by
  intro i hi s
  simp only [List.mem_cons, List.not_mem_nil, or_false] at hi
  rcases hi with rfl | rfl <;> exact congrArg Host.Outcome.next (finish_eq_completed (.error .noData) s)

/-- Settles O27: all five end in `finish` with `BusError`, whose code is 0x82. -/
theorem busErrorCompletes : Obligations.BusErrorCompletes := by
  intro i hi s
  simp only [List.mem_cons, List.not_mem_nil, or_false] at hi
  rcases hi with rfl | rfl | rfl | rfl | rfl <;>
    exact congrArg Host.Outcome.next (finish_eq_completed (.error .busError) s)

/-- Settles O28: the two levels share the end of data. -/
theorem endOfDataCompletes : Obligations.EndOfDataCompletes := by
  intro i hi s
  simp only [List.mem_cons, List.not_mem_nil, or_false] at hi
  rcases hi with rfl | rfl <;> exact congrArg Host.Outcome.next (finish_bytes_eq_completed s)

/-- R68, R180: a success code completes with the result it stands for. -/
theorem exec_resOkOrBytes (n : BitVec 7) (s : State) :
    exec (.resOkOrBytes n) s = .next (finish (successResult n s.phase) s) := rfl

/-- Settles O29: code 0 is `Ok` in a transmit phase only. -/
theorem successCodeCompletes : Obligations.SuccessCodeCompletes := by
  intro n s
  refine ⟨fun hn hp => ?ok, fun h => ?bytes⟩
  case ok =>
    have hr : successResult n s.phase = .ok := if_pos ⟨hn, hp⟩
    rw [exec_resOkOrBytes, hr]; rfl
  case bytes =>
    have hr : successResult n s.phase = .bytes n.toNat := by
      refine if_neg fun ⟨hn, hp⟩ => ?_
      rcases h with h | h
      · exact h hn
      · rw [hp] at h; cases h
    rw [exec_resOkOrBytes, hr, finish_eq_completed, enc_bytes_eq_setWidth n (le_refl 7)]

/-- Settles O30: `DataError` writes its code and no more. -/
theorem dataErrorCodeCompletes : Obligations.DataErrorCodeCompletes := fun _ => rfl

/-! ### Receiver symbols -/

/-- Settles O31: each writes what the box of its rule lists. -/
theorem activityAndSofAdvanceReceiver : Obligations.ActivityAndSofAdvanceReceiver :=
  fun _ => ⟨rfl, rfl⟩

/-- R71: a bit enters at bit 0. -/
theorem shiftIn_eq_shifted (v : Byte) (b : Bool) : shiftIn v b = Claims.shifted v b := by
  cases b <;> rfl

/-- R101: the eight pulse symbols differ in the bit and the new level alone. -/
theorem exec_of_symBit {i : Instr} {b : Bool} {lv : Level} (h : Claims.symBit i = some (b, lv))
    (s : State) : exec i s = takeBit b lv s := by
  cases i <;> cases h <;> rfl

/-- R101: the state a pulse leaves before its bit is counted, written out. -/
theorem bitTaken_eq (b : Bool) (lv : Level) (s : State) :
    bitTaken b lv s =
      { s with shreg := Claims.shifted s.shreg b, ref := lv, tcnt := 0, trun := true } := by
  rw [bitTaken, shiftIn_eq_shifted]; rfl

/-- Settles O32: before the eighth bit a pulse is shifted in and counted. -/
theorem dataPulseShiftsBit : Obligations.DataPulseShiftsBit := by
  intro i b lv s hi hn
  rw [exec_of_symBit hi, takeBit_of_lt _ _ _ (BitVec.lt_def.mpr hn), bitTaken_eq]

/-- The eighth bit of a byte goes to the byte store (R102). -/
theorem exec_of_symBit_of_seven {i : Instr} {b : Bool} {lv : Level}
    (h : Claims.symBit i = some (b, lv)) {s : State} (hn : s.nbits.toNat = 7) :
    exec i s = storeByte (Claims.shifted s.shreg b) (bitTaken b lv s) := by
  rw [exec_of_symBit h, takeBit_of_seven _ _ _ (BitVec.eq_of_toNat_eq hn), shiftIn_eq_shifted]

/-- R102: a stored byte is read back at its index. -/
theorem byteStored_fbByte_self (v : Byte) (s : State) :
    (byteStored v s).fbByte s.nbytes.toNat = v := fbByte_set_self s _ v

/-- R46: a stored byte leaves the others alone. -/
theorem byteStored_fbByte_other (v : Byte) (s : State) {j : Nat} (h : j ≠ s.nbytes.toNat) :
    (byteStored v s).fbByte j = s.fbByte j := fbByte_set_other s _ j v h

/-- Settles O33: with room for a further byte the eighth bit stores this one. -/
theorem eighthBitStoresByte : Obligations.EighthBitStoresByte := by
  intro i b lv s hi h7 h10
  rw [exec_of_symBit_of_seven hi h7, bitTaken_eq]
  exact ⟨_, storeByte_of_lt _ _ (Nat.lt_succ_of_le h10), rfl, byteStored_fbByte_self _ _,
    fun _ => byteStored_fbByte_other _ _⟩

/-- Settles O34: the store of the twelfth byte is followed by `finish` in the same step. -/
theorem twelfthByteCompletes : Obligations.TwelfthByteCompletes := by
  intro i b lv s hi h7 h11
  rw [exec_of_symBit_of_seven hi h7, bitTaken_eq]
  refine ⟨_, storeByte_of_eq _ _ h11, ?state, ?self, ?other⟩
  case state =>
    have hn : s.nbytes + 1 = 12 := (nbytes_succ_eq_twelve _ h11.le).mpr h11
    simp only [finish_eq_completed, byteStored, hn]
    rfl
  case self => exact h11 ▸ byteStored_fbByte_self _ _
  case other => exact fun j hj => byteStored_fbByte_other _ _ (h11.symm ▸ hj)

/-- Settles O35: there is no byte to store to above `FB[11]`. -/
theorem storeBeyondBufferStops : Obligations.StoreBeyondBufferStops := by
  intro i b lv s hi h7 h12
  rw [exec_of_symBit_of_seven hi h7]
  exact storeByte_of_gt _ (bitTaken b lv s) h12

/-! ### What an instruction leaves unchanged -/

/-- Everything an instruction can do when it answers a next state. -/
inductive ExecMove (i : Instr) (s : State) : State → Prop
  | ignored (h : i = .recv ∨ i = .xmit ∨ i = .crc ∨ ∃ v, i = .cmdReserved v) : ExecMove i s s
  | recv (h : i = .recv) :
      ExecMove i s { s.timerStart with phase := .rxWait, nbytes := 0, nbits := 0, shreg := 0x00 }
  | xmit (h : i = .xmit) :
      ExecMove i s { s.timerStart with phase := .txIdle, nbytes := 0, nbits := 0 }
  | rejected (h : i = .xmit) (hp : s.phase = .idle) (hl : 12 < s.len.toNat) :
      ExecMove i s (s.setResult (.error .dataError))
  | crc (h : i = .crc) (v : Byte) : ExecMove i s { s with crcout := v }
  | dataError (h : i = .resDataerror) : ExecMove i s (s.setResult (.error .dataError))
  | activity (h : i = .waitActivity) : ExecMove i s { s.timerStart with phase := .rxSof }
  | sofOk (h : i = .sofOk) :
      ExecMove i s { s.timerStart with phase := .rxBit, ref := .passive }
  | completion (h : Claims.symBit i = none) (hc : Claims.completes s i = true) (r : Result) :
      ExecMove i s (finish r s)
  | bit (b : Bool) (lv : Level) (h : Claims.symBit i = some (b, lv)) (hn : s.nbits < 7) :
      ExecMove i s { bitTaken b lv s with nbits := s.nbits + 1 }
  | byte (b : Bool) (lv : Level) (h : Claims.symBit i = some (b, lv)) (hn : s.nbits = 7)
      (hb : s.nbytes.toNat < 11) :
      ExecMove i s (byteStored (shiftIn s.shreg b) (bitTaken b lv s))
  | cap (b : Bool) (lv : Level) (h : Claims.symBit i = some (b, lv)) (hn : s.nbits = 7)
      (hb : s.nbytes.toNat = 11) :
      ExecMove i s (finish (.bytes 12) (byteStored (shiftIn s.shreg b) (bitTaken b lv s)))

theorem execMove_of_takeBit {i : Instr} {b : Bool} {lv : Level} {s t : State}
    (hi : Claims.symBit i = some (b, lv)) (h : takeBit b lv s = .next t) : ExecMove i s t := by
  rcases takeBit_next h with ⟨hn, rfl⟩ | ⟨hn, hb, rfl⟩ | ⟨hn, hb, rfl⟩
  · exact .bit b lv hi hn
  · exact .byte b lv hi hn hb
  · exact .cap b lv hi hn hb

theorem exec_next {i : Instr} {s t : State} (h : exec i s = .next t) : ExecMove i s t := by
  cases i with
  | recv =>
    simp only [exec, execRecv] at h
    split at h <;> cases h
    · exact .recv rfl
    · exact .ignored (.inl rfl)
  | xmit =>
    simp only [exec, execXmit] at h
    split at h
    · split at h <;> cases h
      · exact .rejected rfl ‹_› ‹_›
      · exact .xmit rfl
    · cases h; exact .ignored (.inr (.inl rfl))
  | crc =>
    simp only [exec, execCrc] at h
    split at h <;> cases h
    · exact .crc rfl _
    · exact .ignored (.inr (.inr (.inl rfl)))
  | cmdReserved v => cases h; exact .ignored (.inr (.inr (.inr ⟨v, rfl⟩)))
  | waitActivity => cases h; exact .activity rfl
  | sofOk => cases h; exact .sofOk rfl
  | resDataerror => cases h; exact .dataError rfl
  | waitTimeout | sofTooshort | sofToolong | pTooshort | aTooshort | pHold | aHold | resOkOrBytes
  | resNodata | resBuserror => cases h; exact .completion rfl rfl _
  | pShort | pMid | pLong | pOver | aShort | aMid | aLong | aOver =>
    exact execMove_of_takeBit rfl h

/-- R103: a pulse symbol completes an operation with the eighth bit of the twelfth byte alone. -/
theorem completes_of_symBit {i : Instr} {x : Bool × Level} (h : Claims.symBit i = some x)
    (s : State) : Claims.completes s i = (s.nbits == 7 && s.nbytes == 11) := by
  cases i with
  | pShort | pMid | pLong | pOver | aShort | aMid | aLong | aOver => rfl
  | _ => cases h

/-- R32: what completes writes `RESULT`. -/
theorem writesResult_of_completes {i : Instr} {s : State} (h : Claims.completes s i = true) :
    Claims.writesResult s i = true := by
  simp [Claims.writesResult, h]

/-- R67, R150, R178: the instructions that leave the phase and the timer alone do not complete. -/
theorem completes_of_inPlace {i : Instr} (s : State)
    (h : i = .crc ∨ i = .resDataerror ∨ ∃ v, i = .cmdReserved v) : Claims.completes s i = false := by
  rcases h with rfl | rfl | ⟨v, rfl⟩ <;> rfl

/-- The instructions that leave the phase and the timer alone are no pulse symbols. -/
theorem symBit_of_inPlace {i : Instr} (h : i = .crc ∨ i = .resDataerror ∨ ∃ v, i = .cmdReserved v) :
    Claims.symBit i = none := by
  rcases h with rfl | rfl | ⟨v, rfl⟩ <;> rfl

/-- Settles O36: the clauses are read off each move of `ExecMove`. -/
theorem instructionsLeaveTheRest : Obligations.InstructionsLeaveTheRest := by
  intro i s t hx
  have hmove := exec_next hx
  clear hx
  cases hmove with
  | ignored h =>
    rcases h with rfl | rfl | rfl | ⟨v, rfl⟩ <;> simp [Claims.completes]
  | recv h => subst h; simp [Claims.completes, State.fbByte, Claims.symBit]
  | xmit h => subst h; simp [Claims.completes, State.fbByte, Claims.symBit]
  | rejected h hp hl =>
    subst h; simp [Claims.completes, State.fbByte, Claims.symBit, Claims.writesResult, hp, hl]
  | crc h v => subst h; simp [Claims.completes, State.fbByte, Claims.symBit]
  | dataError h =>
    subst h; simp [Claims.completes, State.fbByte, Claims.symBit, Claims.writesResult]
  | activity h => subst h; simp [Claims.completes, State.fbByte, Claims.symBit]
  | sofOk h => subst h; simp [Claims.completes, State.fbByte, Claims.symBit]
  | completion h hc r =>
    have hin := fun hi => (completes_of_inPlace s hi).symm.trans hc
    simp_all [State.fbByte, writesResult_of_completes hc]
  | bit b lv h hn =>
    have hin := fun hi => (symBit_of_inPlace hi).symm.trans h
    have h7 : (s.nbits == 7) = false := beq_false_of_ne (by bv_omega)
    have hc : Claims.completes s i = false := by rw [completes_of_symBit h, h7]; rfl
    simp_all [State.fbByte, bitTaken]
  | byte b lv h hn hb =>
    have hin := fun hi => (symBit_of_inPlace hi).symm.trans h
    have h11 : (s.nbytes == 11) = false := beq_false_of_ne (by bv_omega)
    have hc : Claims.completes s i = false := by
      rw [completes_of_symBit h, h11, Bool.and_false]
    have hfb := fun a => byteStored_fbByte_other (j := a) (shiftIn s.shreg b) (bitTaken b lv s)
    simp_all [byteStored, bitTaken, State.fbByte]
  | cap b lv h hn hb =>
    have hin := fun hi => (symBit_of_inPlace hi).symm.trans h
    have hc : Claims.completes s i = true := by
      rw [completes_of_symBit h, hn, BitVec.eq_of_toNat_eq (y := 11) hb]; rfl
    have hfb := fun a => byteStored_fbByte_other (j := a) (shiftIn s.shreg b) (bitTaken b lv s)
    simp_all [byteStored, bitTaken, State.fbByte, writesResult_of_completes hc]

end Sys2Proof.Proofs
end

section
/-! SUPPORT. What the moves of a tick have in common (spec: `40_timer_busline.md` R81 to R85,
`10_state.md` R31 to R37): the registers they leave alone, and what they do to the timer. -/

namespace Sys2Proof.Proofs

open Sys2Proof.Machine

theorem isTx_eq_false_of_isRx {p : Phase} (h : p.isRx = true) : p.isTx = false := by
  cases p with
  | rxWait | rxSof | rxBit => rfl
  | idle | txIdle | txSof | txBit | txEof => cases h

theorem ne_idle_of_isRx {p : Phase} (h : p.isRx = true) : p ≠ .idle := fun hp => by
  rw [hp] at h; cases h

theorem ne_idle_of_isTx {p : Phase} (h : p.isTx = true) : p ≠ .idle := fun hp => by
  rw [hp] at h; cases h

@[simp] theorem busyTick_fbByte (s : State) (j : Nat) : s.busyTick.fbByte j = s.fbByte j :=
  fbByte_congr (busyTick_fb s) (busyTick_epoch s) j

/-- A rule of a busy tick writes no register of the host but `RESULT`, and none of the model's own
fields but the tagged result. -/
theorem moves_frame {lv : Level} {u t : State} (h : Moves lv u t) :
    t.len = u.len ∧ t.crcout = u.crcout ∧ t.tmomult = u.tmomult ∧ t.params = u.params ∧
      t.epoch = u.epoch ∧ t.inputs = u.inputs ∧ t.rdata = u.rdata := by
  cases h <;> exact ⟨rfl, rfl, rfl, rfl, rfl, rfl, rfl⟩

/-- R82, R83: a rule of a busy tick restarts the count or leaves it at `now`. -/
theorem moves_tcnt {lv : Level} {u t : State} (h : Moves lv u t) : t.tcnt = 0 ∨ t.tcnt = u.tcnt := by
  cases h with
  | activity | sofOk | bit | byte | cap | idleRestart | idleConfirmed | slot | frameEnd =>
    exact .inl rfl
  | waitOn | noData | sofOn | sofTooLong | sofTooShort | runOn | endOfData | pulseTooShort | idleOn
  | txSofOn | slotOn | collision | eofOn | done => exact .inr rfl

/-- R85: a rule restarts the count, ends the operation, or waits for the limit of its phase. -/
theorem moves_timer {lv : Level} {u t : State} (h : Moves lv u t) :
    t.tcnt = 0 ∨ t.phase = .idle ∨ t = u ∧ u.tcnt < u.timerLimit := by
  cases h with
  | waitOn hp _ ht | sofOn hp _ ht | runOn hp _ ht | idleOn hp _ ht | slotOn hp _ ht
  | txSofOn hp ht | eofOn hp ht =>
    refine .inr (.inr ⟨rfl, ?_⟩)
    simp only [State.timerLimit, hp]
    exact ht
  | noData | sofTooLong | sofTooShort | endOfData | pulseTooShort | cap | collision | done =>
    exact .inr (.inl rfl)
  | activity | sofOk | bit | byte | idleRestart | idleConfirmed | slot | frameEnd => exact .inl rfl

/-- What a command byte leaves alone (R96, R121, R150). -/
theorem commandMove_frame {u t : State} (h : CommandMove u t) :
    t.len = u.len ∧ t.tmomult = u.tmomult ∧ t.params = u.params ∧ t.drv = u.drv := by
  cases h <;> exact ⟨rfl, rfl, rfl, rfl⟩

/-- R96, R121: a command byte starts the timer at 0 or leaves it alone. -/
theorem commandMove_timer {u t : State} (h : CommandMove u t) :
    t.tcnt = u.tcnt ∨ t.tcnt = 0 ∧ t.trun = true := by
  cases h with
  | recv | xmit => exact .inr ⟨rfl, rfl⟩
  | xmitTooLong | crc | ignored => exact .inl rfl

/-- R37: the host has no access to the parameters. -/
theorem hostMove_params {a : Option Access} {u t : State} (hp : u.phase = .idle)
    (h : HostMove u a t) : t.params = u.params := by
  cases h with
  | command v t ht =>
    obtain ⟨-, -, hparams, -⟩ := commandMove_frame (command_next hp ht)
    exact hparams
  | nothing | read | writeFb | writeLen | writeTmomult | ignored => rfl

/-- The move of an idle tick. -/
theorem step_hostMove {s t : State} (hr : s.input.rst = false) (hp : s.phase = .idle)
    (h : step s = .next t) : HostMove s.advance s.input.access t :=
  hostAccess_next (step_of_idle hr hp ▸ h)

/-- Settles O13: the moves of a busy tick see `now`, those of an idle tick the old count. -/
theorem timerCountsRestartsOrStands : Obligations.TimerCountsRestartsOrStands := by
  intro s t hr h
  refine ⟨fun hp => moves_tcnt (step_moves hr hp h), fun hp => ?idle⟩
  case idle =>
    generalize ha : s.input.access = a
    have hm := ha ▸ step_hostMove hr hp h
    cases hm with
    | command v t ht =>
      exact (commandMove_timer (command_next (u := s.advance) hp ht)).imp id fun h => ⟨h.1, h.2, v, rfl⟩
    | nothing | read | writeFb | writeLen | writeTmomult | ignored => exact .inl rfl

/-- Settles O53: no move writes the parameters, and the reset step keeps them. -/
theorem parametersNeverChange : Obligations.ParametersNeverChange := by
  intro s t h
  rcases step_next h with ⟨-, rfl⟩ | ⟨-, hp, ha⟩ | ⟨hr, hp, -⟩
  · exact accessUnderReset_params _ _
  · exact hostMove_params (u := s.advance) hp (hostAccess_next ha)
  · obtain ⟨-, -, -, hparams, -⟩ := moves_frame (step_moves hr hp h)
    exact hparams.trans (busyTick_params s)

end Sys2Proof.Proofs
end

section
/-! SUPPORT. The invariant of R39 (spec: `10_state.md`), phase by phase. -/

namespace Sys2Proof.Proofs

open Sys2Proof.Machine

/-- The part of the invariant that is the same in every phase. -/
structure InvCore (s : State) : Prop where
  fb_wf : Memory.wf s.fb = true
  tcnt_lt : s.tcnt < 2 ^ s.params.wTimer
  nbytes_le : s.nbytes.toNat ≤ 12
  result_coherent : s.resultCoherent

theorem core_of_inv {s : State} (h : s.Inv) : InvCore s :=
  ⟨h.fb_wf, h.tcnt_lt, h.nbytes_le, h.result_coherent⟩

/-- R69: the code of a result is no reserved value. -/
theorem resultCoherent_of_result {s : State} {r : Result} (htag : s.resultTag = some r)
    (hr : r.wf = true) (hres : s.result = enc r) : s.resultCoherent := by
  unfold State.resultCoherent
  rw [htag]
  exact ⟨hr, hres⟩

/-- `RESULT` and its tag are the only registers the coherence of the result is about. -/
theorem resultCoherent_congr {s t : State} (h : s.resultCoherent) (hres : t.result = s.result)
    (htag : t.resultTag = s.resultTag) : t.resultCoherent := by
  unfold State.resultCoherent at h ⊢
  rw [hres, htag]
  exact h

/-- R39 item 1. -/
theorem inv_of_idle {s : State} (c : InvCore s) (hp : s.phase = .idle) (ht : s.trun = false)
    (hd : s.drv = .passive) : s.Inv := by
  obtain ⟨hfb, htcnt, hn, hres⟩ := c
  constructor <;> simp_all [State.busy, Phase.isRx, Phase.isTx]

/-- R39 item 2, before the first bit (R96). -/
theorem inv_of_rxStart {s : State} (c : InvCore s) (hp : s.phase = .rxWait ∨ s.phase = .rxSof)
    (ht : s.trun = true) (hd : s.drv = .passive)
    (h0 : s.nbytes = 0 ∧ s.nbits = 0 ∧ s.shreg = 0) : s.Inv := by
  obtain ⟨hfb, htcnt, hn, hres⟩ := c
  rcases hp with hp | hp <;> constructor <;> simp_all [State.busy, Phase.isTx]

/-- R39 items 2 and 3. -/
theorem inv_of_rxBit {s : State} (c : InvCore s) (hp : s.phase = .rxBit) (ht : s.trun = true)
    (hd : s.drv = .passive) (h11 : s.nbytes.toNat ≤ 11) : s.Inv := by
  obtain ⟨hfb, htcnt, hn, hres⟩ := c
  constructor <;> simp_all [State.busy, Phase.isTx]

/-- R39 items 6 and 7, before the first slot (R121): the line is active in the SOF and released in the
idle wait. -/
theorem inv_of_txStart {s : State} (c : InvCore s)
    (hp : s.phase = .txIdle ∧ s.drv = .passive ∨ s.phase = .txSof ∧ s.drv = .active)
    (ht : s.trun = true) (hl : s.len.toNat ≤ 12) (h0 : s.nbytes = 0 ∧ s.nbits = 0) : s.Inv := by
  obtain ⟨hfb, htcnt, hn, hres⟩ := c
  rcases hp with ⟨hp, hd⟩ | ⟨hp, hd⟩ <;> constructor <;> simp_all [State.busy, Phase.isRx]

/-- R39 items 6 and 7, in a bit slot. -/
theorem inv_of_txBit {s : State} (c : InvCore s) (hp : s.phase = .txBit) (ht : s.trun = true)
    (hl : s.len.toNat ≤ 12) (hd : s.drv = s.slotOnWire)
    (hs : 1 ≤ s.slotsStarted ∧ s.slotsStarted ≤ 8 * s.len.toNat)
    (hdur : s.dur = s.params.txShort ∨ s.dur = s.params.txLong) : s.Inv := by
  obtain ⟨hfb, htcnt, hn, hres⟩ := c
  constructor <;> simp_all [State.busy, Phase.isRx]

/-- R39 items 6 and 7, in the end of frame. -/
theorem inv_of_txEof {s : State} (c : InvCore s) (hp : s.phase = .txEof) (ht : s.trun = true)
    (hl : s.len.toNat ≤ 12) (hd : s.drv = .passive)
    (hn : s.nbytes.toNat = s.len.toNat ∧ s.nbits = 0) : s.Inv := by
  obtain ⟨hfb, htcnt, hn', hres⟩ := c
  constructor <;> simp_all [State.busy, Phase.isRx]

/-- A completion meets the invariant, whatever the phase it ends (R180). -/
theorem finish_inv {s : State} {r : Result} (hfb : Memory.wf s.fb = true)
    (ht : s.tcnt < 2 ^ s.params.wTimer) (hn : s.nbytes.toNat ≤ 12) (hr : r.wf = true) :
    (finish r s).Inv :=
  inv_of_idle ⟨hfb, ht, hn, resultCoherent_of_result rfl hr rfl⟩ rfl rfl rfl

/-- R84: `now` has `W_TIMER` bits. -/
theorem nextTicks_lt (s : State) : s.nextTicks < 2 ^ s.params.wTimer :=
  Nat.mod_lt _ (Nat.two_pow_pos _)

/-- What a busy tick does before its rule keeps the invariant. -/
theorem busyTick_inv {s : State} (h : s.Inv) : s.busyTick.Inv where
  fb_wf := by simpa using h.fb_wf
  tcnt_lt := by simpa using nextTicks_lt s
  trun_busy := by simpa [State.busy] using h.trun_busy
  idle_released := by simpa using h.idle_released
  rx_released := by simpa using h.rx_released
  nbytes_le := by simpa using h.nbytes_le
  rxBit_room := by simpa using h.rxBit_room
  rx_start := by simpa using h.rx_start
  tx_len := by simpa using h.tx_len
  tx_start := by simpa using h.tx_start
  txSof_active := by simpa using h.txSof_active
  txEnds_passive := by simpa using h.txEnds_passive
  txBit_level := by simpa [State.slotOnWire] using h.txBit_level
  txBit_slots := by simpa [State.slotsStarted] using h.txBit_slots
  txBit_dur := by simpa using h.txBit_dur
  txEof_done := by simpa using h.txEof_done
  result_coherent := resultCoherent_congr h.result_coherent (by simp) (by simp)

/-! ### The transmitter's counters -/

/-- R124, R65: the slot that `next_slot` starts is the one its new counter names. -/
theorem position_of_next_slot (n : BitVec 3) : (8 - (n + 1).toNat) % 8 = 7 - n.toNat := by
  revert n; decide

theorem startSlot_slotOnWire (v : Byte) (s : State) : (startSlot v s).drv = (startSlot v s).slotOnWire := by
  rw [State.slotOnWire, startSlot_nbits, position_of_next_slot]; rfl

/-- R124: `next_slot` counts one slot. -/
theorem startSlot_slotsStarted (v : Byte) {s : State} (h : s.nbytes.toNat ≤ 12) :
    (startSlot v s).slotsStarted = s.slotsStarted + 1 := by
  simp only [State.slotsStarted, startSlot_nbits, startSlot_nbytes]
  split
  next h7 => rw [h7]; bv_omega
  next h7 => bv_omega

theorem txdur_cases (P : Params) (lv : Level) (b : Bool) :
    txdur P lv b = P.txShort ∨ txdur P lv b = P.txLong := by
  match lv, b with
  | .passive, true | .active, false => exact .inl rfl
  | .passive, false | .active, true => exact .inr rfl

/-- The counters of a transmit whose SOF or slot is on the wire (R39 item 7). -/
theorem slots_le_of_sending {s : State} (h : s.Inv) (hp : s.phase = .txSof ∨ s.phase = .txBit) :
    s.len.toNat ≤ 12 ∧ s.trun = true ∧ s.slotsStarted ≤ 8 * s.len.toNat := by
  have hbusy := h.trun_busy
  rcases hp with hp | hp
  · obtain ⟨hn, hb⟩ := h.tx_start (.inr hp)
    refine ⟨h.tx_len (by rw [hp]; rfl), by simpa [State.busy, hp] using hbusy, ?_⟩
    simp [State.slotsStarted, hn, hb]
  · exact ⟨h.tx_len (by rw [hp]; rfl), by simpa [State.busy, hp] using hbusy,
      (h.txBit_slots hp).2⟩

/-- A new slot keeps the invariant (R124). -/
theorem startSlot_inv {s : State} (v : Byte) (h : s.Inv) (hp : s.phase = .txSof ∨ s.phase = .txBit)
    (hn : s.nbytes.toNat ≠ s.len.toNat) : (startSlot v s).Inv := by
  obtain ⟨hl, -, hs⟩ := slots_le_of_sending h hp
  have hcount := startSlot_slotsStarted v h.nbytes_le
  have hs' : (startSlot v s).slotsStarted ≤ 8 * s.len.toNat := by
    simp only [State.slotsStarted] at hs hcount ⊢; omega
  have hn' : (startSlot v s).nbytes.toNat ≤ 12 := by
    simp only [State.slotsStarted] at hs'; omega
  exact inv_of_txBit
    ⟨h.fb_wf, Nat.two_pow_pos _, hn', resultCoherent_congr h.result_coherent rfl rfl⟩ rfl rfl hl
    (startSlot_slotOnWire v s) ⟨by omega, hs'⟩ (txdur_cases _ _ _)

/-- The end of frame keeps the invariant (R124). -/
theorem frameEnd_inv {s : State} (h : s.Inv) (hp : s.phase = .txSof ∨ s.phase = .txBit)
    (hn : s.nbytes.toNat = s.len.toNat) :
    ({ s.drivePassive.timerStart with phase := .txEof } : State).Inv := by
  obtain ⟨hl, -, hs⟩ := slots_le_of_sending h hp
  have h0 : s.nbits = 0 := by simp only [State.slotsStarted] at hs; bv_omega
  exact inv_of_txEof
    ⟨h.fb_wf, Nat.two_pow_pos _, h.nbytes_le, resultCoherent_congr h.result_coherent rfl rfl⟩ rfl rfl
    hl rfl ⟨hn, h0⟩

/-! ### Every step -/

theorem byteStored_fb_wf {s : State} (v : Byte) (hfb : Memory.wf s.fb = true)
    (h11 : s.nbytes.toNat ≤ 11) : Memory.wf (byteStored v s).fb = true :=
  Memory.wf_set _ _ _ hfb (Nat.lt_succ_of_le h11)

theorem byteStored_nbytes {s : State} (v : Byte) (h11 : s.nbytes.toNat ≤ 11) :
    (byteStored v s).nbytes.toNat = s.nbytes.toNat + 1 := by
  change (s.nbytes + 1).toNat = _
  bv_omega

/-- Every move of a busy tick keeps the invariant. -/
theorem moves_keep_inv {lv : Level} {u t : State} (h : u.Inv) (hm : Moves lv u t) : t.Inv := by
  have hcoh := h.result_coherent
  have hpow : 0 < 2 ^ u.params.wTimer := Nat.two_pow_pos _
  cases hm with
  | waitOn | sofOn | runOn | idleOn | slotOn | txSofOn | eofOn => exact h
  | noData | sofTooLong | sofTooShort | pulseTooShort | collision | done =>
    exact finish_inv h.fb_wf h.tcnt_lt h.nbytes_le rfl
  | endOfData hp =>
    exact finish_inv h.fb_wf h.tcnt_lt h.nbytes_le (decide_eq_true h.nbytes_le)
  | cap hp _ _ _ hb =>
    have hn := byteStored_nbytes (s := bitTaken (bitval u.params u.ref u.tcnt) lv u)
      (shiftIn u.shreg (bitval u.params u.ref u.tcnt)) hb.le
    exact finish_inv (byteStored_fb_wf _ h.fb_wf hb.le) hpow (hn.trans (congrArg (· + 1) hb)).le rfl
  | activity hp =>
    exact inv_of_rxStart ⟨h.fb_wf, hpow, h.nbytes_le, resultCoherent_congr hcoh rfl rfl⟩ (.inr rfl)
      rfl (h.rx_released (by rw [hp]; rfl)) (h.rx_start (.inl hp))
  | sofOk hp =>
    have h0 := (h.rx_start (.inr hp)).1
    exact inv_of_rxBit ⟨h.fb_wf, hpow, h.nbytes_le, resultCoherent_congr hcoh rfl rfl⟩ rfl rfl
      (h.rx_released (by rw [hp]; rfl)) (by simp [h0])
  | bit hp =>
    exact inv_of_rxBit ⟨h.fb_wf, hpow, h.nbytes_le, resultCoherent_congr hcoh rfl rfl⟩ hp rfl
      (h.rx_released (by rw [hp]; rfl)) (h.rxBit_room hp)
  | byte hp _ _ _ hb =>
    have hn := (byteStored_nbytes (s := bitTaken (bitval u.params u.ref u.tcnt) lv u)
      (shiftIn u.shreg (bitval u.params u.ref u.tcnt)) hb.le).trans_le hb
    exact inv_of_rxBit ⟨byteStored_fb_wf _ h.fb_wf hb.le, hpow, hn.trans (by decide),
      resultCoherent_congr hcoh rfl rfl⟩ hp rfl (h.rx_released (by rw [hp]; rfl)) hn
  | idleRestart hp =>
    exact inv_of_txStart ⟨h.fb_wf, hpow, h.nbytes_le, resultCoherent_congr hcoh rfl rfl⟩
      (.inl ⟨hp, h.txEnds_passive (.inl hp)⟩) rfl (h.tx_len (by rw [hp]; rfl)) (h.tx_start (.inl hp))
  | idleConfirmed hp =>
    exact inv_of_txStart ⟨h.fb_wf, hpow, h.nbytes_le, resultCoherent_congr hcoh rfl rfl⟩
      (.inr ⟨rfl, rfl⟩) rfl (h.tx_len (by rw [hp]; rfl)) (h.tx_start (.inl hp))
  | slot hp hn => exact startSlot_inv _ h (hp.imp And.left And.left) hn
  | frameEnd hp hn => exact frameEnd_inv h (hp.imp And.left And.left) hn

/-- A command byte keeps the invariant of an idle block. -/
theorem commandMove_keeps_inv {u t : State} (h : u.Inv) (hp : u.phase = .idle)
    (hm : CommandMove u t) : t.Inv := by
  have hcoh := h.result_coherent
  have hpow : 0 < 2 ^ u.params.wTimer := Nat.two_pow_pos _
  have hd := h.idle_released hp
  have ht : u.trun = false := by simpa [State.busy, hp] using h.trun_busy
  cases hm with
  | ignored => exact h
  | recv =>
    exact inv_of_rxStart ⟨h.fb_wf, hpow, Nat.zero_le _, resultCoherent_congr hcoh rfl rfl⟩ (.inl rfl)
      rfl hd ⟨rfl, rfl, rfl⟩
  | xmit hl =>
    exact inv_of_txStart ⟨h.fb_wf, hpow, Nat.zero_le _, resultCoherent_congr hcoh rfl rfl⟩
      (.inl ⟨rfl, hd⟩) rfl hl ⟨rfl, rfl⟩
  | xmitTooLong =>
    exact inv_of_idle ⟨h.fb_wf, h.tcnt_lt, h.nbytes_le, resultCoherent_of_result rfl rfl rfl⟩ hp ht hd
  | crc =>
    exact inv_of_idle ⟨h.fb_wf, h.tcnt_lt, h.nbytes_le, resultCoherent_congr hcoh rfl rfl⟩ hp ht hd

/-- A host access keeps the invariant of an idle block. -/
theorem hostMove_keeps_inv {a : Option Access} {u t : State} (h : u.Inv) (hp : u.phase = .idle)
    (hm : HostMove u a t) : t.Inv := by
  obtain ⟨hfb, htcnt, hn, hcoh⟩ := core_of_inv h
  have hd := h.idle_released hp
  have ht : u.trun = false := by simpa [State.busy, hp] using h.trun_busy
  cases hm with
  | nothing | ignored => exact h
  | read | writeLen | writeTmomult =>
    exact inv_of_idle ⟨hfb, htcnt, hn, resultCoherent_congr hcoh rfl rfl⟩ hp ht hd
  | writeFb a v ha =>
    exact inv_of_idle ⟨Memory.wf_set _ _ _ hfb ha, htcnt, hn, resultCoherent_congr hcoh rfl rfl⟩ hp ht
      hd
  | command v t hx => exact commandMove_keeps_inv h hp (command_next hp hx)

/-- Using up a tick's input keeps the invariant. -/
theorem advance_inv {s : State} (h : s.Inv) : s.advance.Inv := { h with }

/-- A state with the registers of `State.reset` meets the invariant (R38). -/
theorem resetStep_inv (s : State) : s.resetStep.Inv :=
  inv_of_idle ⟨Memory.wf_nil, Nat.two_pow_pos _, Nat.zero_le _, (rfl : s.resetStep.result = 0x00)⟩ rfl
    rfl rfl

/-- Settles O50: each of the three kinds of tick keeps the invariant. -/
theorem stepKeepsInvariant : Obligations.StepKeepsInvariant := by
  intro s t h hs
  rcases step_next hs with ⟨-, rfl⟩ | ⟨-, hp, ha⟩ | ⟨hr, hp, -⟩
  · exact resetStep_inv _
  · exact hostMove_keeps_inv (advance_inv h) hp (hostAccess_next ha)
  · exact moves_keep_inv (busyTick_inv h) (step_moves hr hp hs)

/-- Settles O49: nothing runs after reset. -/
theorem resetMeetsInvariant : Obligations.ResetMeetsInvariant :=
  ⟨inv_of_idle ⟨Memory.wf_nil, Nat.two_pow_pos _, Nat.zero_le _, (rfl : State.reset.result = 0x00)⟩
    rfl rfl rfl, Nat.two_pow_pos _⟩

/-! ### The timer -/

/-- WF1, R85: the limit of a busy phase fits the timer. -/
theorem timerLimit_fits {s : State} (h1 : s.params.WF1) (hi : s.Inv) (hp : s.phase ≠ .idle) :
    s.params.fits s.timerLimit := by
  obtain ⟨_, hsof, _, _, _, _, heod, hifs, htxSof, htxShort, htxLong, htxEof, hnoData⟩ := h1
  unfold State.timerLimit
  split
  case h_1 hidle => exact absurd hidle hp
  case h_7 hbit => rcases hi.txBit_dur hbit with hd | hd <;> rw [hd] <;> assumption
  all_goals assumption

/-- R85: under WF1 a busy tick counts without a wrap. -/
theorem nextTicks_eq_succ {s : State} (h1 : s.params.WF1) (hi : s.Inv) (hb : s.TimerBounded)
    (hp : s.phase ≠ .idle) : s.nextTicks = s.tcnt + 1 := by
  have hlimit := (timerLimit_fits h1 hi hp).2
  unfold State.TimerBounded at hb
  exact Nat.mod_eq_of_lt (by omega)

/-- A block that meets the invariant is within its limit when it is idle or has just restarted its
timer. -/
theorem timerBounded_of_restart {s : State} (h1 : s.params.WF1) (hi : s.Inv)
    (h : s.tcnt = 0 ∨ s.phase = .idle) : s.TimerBounded := by
  unfold State.TimerBounded
  by_cases hp : s.phase = .idle
  · simpa only [State.timerLimit, hp] using hi.tcnt_lt
  · have hpos := (timerLimit_fits h1 hi hp).1
    have h0 := h.resolve_right hp
    omega

/-- An access to an idle block leaves the timer alone or starts an operation at 0. -/
theorem hostMove_timer {a : Option Access} {u t : State} (hp : u.phase = .idle)
    (h : HostMove u a t) : t.tcnt = 0 ∨ t.phase = .idle := by
  cases h with
  | command v t ht =>
    cases command_next hp ht with
    | recv | xmit => exact .inl rfl
    | xmitTooLong | crc | ignored => exact .inr hp
  | nothing | read | writeFb | writeLen | writeTmomult | ignored => exact .inr hp

/-- Settles O52: a step restarts the timer, ends in `IDLE`, or waits below the limit of its phase. -/
theorem timerNeverWraps : Obligations.TimerNeverWraps := by
  intro s t h1 hi hb hs
  have ht : t.Inv := stepKeepsInvariant s t hi hs
  have h1' : t.params.WF1 := (parametersNeverChange s t hs).symm ▸ h1
  refine ⟨?bounded, nextTicks_eq_succ h1 hi hb⟩
  rcases step_next hs with ⟨-, rfl⟩ | ⟨-, hp, ha⟩ | ⟨hr, hp, -⟩
  · exact timerBounded_of_restart h1' ht (.inl rfl)
  · exact timerBounded_of_restart h1' ht (hostMove_timer (u := s.advance) hp
      (hostAccess_next ha))
  · rcases moves_timer (step_moves hr hp hs) with h0 | hidle | ⟨rfl, hwait⟩
    · exact timerBounded_of_restart h1' ht (.inl h0)
    · exact timerBounded_of_restart h1' ht (.inr hidle)
    · exact hwait

/-! ### Progress -/

/-- The byte a transmit may have to fetch is one of the buffer (R41). -/
theorem nextSlot_answers_of_inv {s : State} (h : s.Inv) (hp : s.phase = .txSof ∨ s.phase = .txBit) :
    ∃ t, nextSlot s = .next t := by
  obtain ⟨hl, -, hs⟩ := slots_le_of_sending h hp
  refine nextSlot_answers s fun _ hn => ?_
  simp only [State.slotsStarted] at hs
  change _ < 12
  omega

/-- The rule of a busy phase answers (R41). -/
theorem phaseRule_answers {s : State} (lv : Level) (h : s.Inv) : ∃ t, phaseRule lv s = .next t := by
  unfold phaseRule
  split
  next => exact ⟨_, rfl⟩
  next hp => rw [rxPhase_wait _ _ hp]; split_ifs <;> exact ⟨_, rfl⟩
  next hp => rw [rxPhase_sof _ _ hp]; split_ifs <;> exact ⟨_, rfl⟩
  next hp =>
    rw [rxPhase_bit _ _ hp]
    split_ifs
    · exact ⟨_, rfl⟩
    · exact ⟨_, rfl⟩
    · exact ⟨_, rfl⟩
    · exact takeBit_answers _ _ _ (h.rxBit_room hp)
  next => unfold txIdlePhase; split_ifs <;> exact ⟨_, rfl⟩
  next hp =>
    unfold txSofPhase
    split_ifs
    · exact nextSlot_answers_of_inv h (.inl hp)
    · exact ⟨_, rfl⟩
  next hp =>
    unfold txBitPhase
    split_ifs
    · exact ⟨_, rfl⟩
    · exact nextSlot_answers_of_inv h (.inr hp)
    · exact ⟨_, rfl⟩
  next => unfold txEofPhase; split_ifs <;> exact ⟨_, rfl⟩

/-- A command byte is always answered (R66, R67). -/
theorem command_answers (v : Byte) (s : State) : ∃ t, exec (decodeCmd v) s = .next t := by
  unfold decodeCmd
  split_ifs
  · change ∃ t, execRecv s = .next t
    unfold execRecv; split_ifs <;> exact ⟨_, rfl⟩
  · change ∃ t, execXmit s = .next t
    unfold execXmit; split_ifs <;> exact ⟨_, rfl⟩
  · change ∃ t, execCrc s = .next t
    unfold execCrc; split_ifs <;> exact ⟨_, rfl⟩
  · exact ⟨_, rfl⟩

/-- An access to an idle block is always answered (R161 to R163). -/
theorem hostAccess_answers (a : Option Access) (s : State) : ∃ t, hostAccess a s = .next t := by
  rcases a with _ | _ | ⟨a, v⟩
  · exact ⟨_, rfl⟩
  · exact ⟨_, rfl⟩
  · change ∃ t, hostWrite a v s = .next t
    unfold hostWrite
    split
    case h_3 => exact command_answers v s
    all_goals exact ⟨_, rfl⟩

/-- Settles O51: each of the three kinds of tick answers. -/
theorem stepNeverStops : Obligations.StepNeverStops := by
  intro s h
  cases hr : s.input.rst
  · by_cases hp : s.phase = .idle
    · exact step_of_idle hr hp ▸ hostAccess_answers _ _
    · exact step_of_busy hr hp ▸ phaseRule_answers _ (busyTick_inv h)
  · exact ⟨_, step_of_reset hr⟩

/-! ### Phases and writers -/

/-- Settles O54: every move of a busy tick stays in its phase or is one of the two tables', and an idle
block leaves `IDLE` for an accepted command. -/
theorem phaseChangesAreListed : Obligations.PhaseChangesAreListed := by
  intro s t hr h hne
  by_cases hp : s.phase = .idle
  · have hm := step_hostMove hr hp h
    generalize s.input.access = a at hm
    cases hm with
    | nothing | read | writeFb | writeLen | writeTmomult | ignored => exact absurd rfl hne
    | command v t ht =>
      cases command_next (u := s.advance) hp ht with
      | recv | xmit => simp [hp]
      | xmitTooLong | crc | ignored => exact absurd rfl hne
  · have hm := step_moves hr hp h
    rw [← busyTick_phase s] at hne ⊢
    generalize s.busyTick = u at hm hne ⊢
    cases hm with
    | waitOn | sofOn | runOn | bit | byte | idleRestart | idleOn | txSofOn | slotOn | eofOn =>
      exact absurd rfl hne
    | activity hp | noData hp | sofTooLong hp | sofTooShort hp | sofOk hp | endOfData hp
    | pulseTooShort hp | cap hp | idleConfirmed hp | collision hp | done hp => simp [hp]
    | slot hp =>
      rcases hp with ⟨hp, -⟩ | ⟨hp, -⟩
      · simp [hp]
      · exact absurd hp.symm hne
    | frameEnd hp => rcases hp with ⟨hp, -⟩ | ⟨hp, -⟩ <;> simp [hp]

/-- R32: in a busy tick only a completion writes `RESULT`. -/
theorem moves_result {lv : Level} {u t : State} (h : Moves lv u t) :
    t.result = u.result ∨ t.phase = .idle := by
  cases h with
  | noData | sofTooLong | sofTooShort | endOfData | pulseTooShort | cap | collision | done =>
    exact .inr rfl
  | waitOn | activity | sofOn | sofOk | runOn | bit | byte | idleRestart | idleOn | idleConfirmed
  | txSofOn | slotOn | slot | frameEnd | eofOn => exact .inl rfl

/-- R24: what a busy tick writes to `DRV`, by phase. -/
theorem moves_drv {lv : Level} {u t : State} (h : Moves lv u t) :
    t.drv = u.drv ∨ t.drv = .passive ∧ t.phase = .idle ∨
      (u.phase = .txIdle ∧ t.drv = .active ∨ u.phase = .txSof ∨ u.phase = .txBit) := by
  cases h with
  | waitOn | activity | sofOn | sofOk | runOn | bit | byte | idleRestart | idleOn | txSofOn | slotOn
  | eofOn => exact .inl rfl
  | noData | sofTooLong | sofTooShort | endOfData | pulseTooShort | cap | collision | done =>
    exact .inr (.inl ⟨rfl, rfl⟩)
  | idleConfirmed hp => exact .inr (.inr (.inl ⟨hp, rfl⟩))
  | slot hp | frameEnd hp => exact .inr (.inr (.inr (hp.imp And.left And.left)))

/-- The command byte read backwards (R66, R67). -/
theorem decodeCmd_cases (v : Byte) :
    v = 0x01 ∧ decodeCmd v = .recv ∨ v = 0x02 ∧ decodeCmd v = .xmit ∨
      v = 0x03 ∧ decodeCmd v = .crc ∨ decodeCmd v = .cmdReserved v := by
  unfold decodeCmd
  split_ifs <;> simp_all

/-- Only `CRC` writes `CRCOUT`, and only a rejected `XMIT` writes `RESULT` (R33, R121). -/
theorem command_writers {v : Byte} {u t : State} (hp : u.phase = .idle)
    (h : exec (decodeCmd v) u = .next t) :
    (t.crcout ≠ u.crcout → v = 0x03) ∧
      (t.result ≠ u.result → t.phase = .idle ∧ v = 0x02 ∧ 12 < u.len.toNat) := by
  rcases decodeCmd_cases v with ⟨rfl, hd⟩ | ⟨rfl, hd⟩ | ⟨rfl, hd⟩ | hd <;> rw [hd] at h
  · rw [(recvIsAccepted u).1 hp] at h
    cases h; exact ⟨fun hne => absurd rfl hne, fun hne => absurd rfl hne⟩
  · obtain ⟨hlong, hok, -⟩ := xmitChecksLengthAndIsAccepted u
    by_cases hl : 12 < u.len.toNat
    · rw [hlong hp hl] at h
      cases h; exact ⟨fun hne => absurd rfl hne, fun _ => ⟨hp, rfl, hl⟩⟩
    · rw [hok hp (Nat.not_lt.mp hl)] at h
      cases h; exact ⟨fun hne => absurd rfl hne, fun hne => absurd rfl hne⟩
  · obtain ⟨hok, hlong⟩ := crcStoresChecksumOfFrame u
    refine ⟨fun _ => rfl, fun hne => absurd ?_ hne⟩
    by_cases hl : u.len.toNat ≤ 12
    · rw [hok hp hl] at h; cases h; rfl
    · rw [hlong (.inr (Nat.not_le.mp hl))] at h; cases h; rfl
  · cases h; exact ⟨fun hne => absurd rfl hne, fun hne => absurd rfl hne⟩

/-- R24, R31 to R34: the writers of an idle tick. -/
theorem hostMove_writers {a : Option Access} {u t : State} (hp : u.phase = .idle)
    (h : HostMove u a t) :
    (t.len ≠ u.len → a = some (.wr 0x10 t.len)) ∧
    (t.tmomult ≠ u.tmomult → a = some (.wr 0x15 t.tmomult)) ∧
    (t.crcout ≠ u.crcout → a = some (.wr 0x11 0x03)) ∧
    (t.result ≠ u.result → t.phase = .idle ∧ a = some (.wr 0x11 0x02) ∧ 12 < u.len.toNat) ∧
    t.drv = u.drv := by
  cases h with
  | nothing | read | writeFb | ignored => simp
  | writeLen v => simp
  | writeTmomult v => simp
  | command v t ht =>
    obtain ⟨hlen, htm, -, hdrv⟩ := commandMove_frame (command_next hp ht)
    obtain ⟨hcrc, hres⟩ := command_writers hp ht
    refine ⟨fun hne => absurd hlen hne, fun hne => absurd htm hne, fun hne => ?_, fun hne => ?_, hdrv⟩
    · rw [hcrc hne]
    · obtain ⟨hidle, rfl, hl⟩ := hres hne
      exact ⟨hidle, rfl, hl⟩

/-- Settles O55: an idle tick writes what the host addresses, a busy tick what its move writes. -/
theorem registersHaveNamedWriters : Obligations.RegistersHaveNamedWriters := by
  intro s t hr h
  by_cases hp : s.phase = .idle
  · obtain ⟨hlen, htm, hcrc, hres, hdrv⟩ := hostMove_writers (u := s.advance) hp (step_hostMove hr hp h)
    have hdrv' : t.drv = s.drv := hdrv
    refine ⟨fun hne => ⟨hp, hlen hne⟩, fun hne => ⟨hp, htm hne⟩, fun hne => ⟨hp, hcrc hne⟩,
      fun hne => (hres hne).imp id .inr, fun h0 h1 => absurd (h1.symm.trans (hdrv'.trans h0)) (by decide),
      fun h0 h1 => absurd (h1.symm.trans (hdrv'.trans h0)) (by decide)⟩
  · have hm := step_moves hr hp h
    obtain ⟨hlen, hcrc, htm, -⟩ := moves_frame hm
    have hres := moves_result hm
    have hdrv := moves_drv hm
    simp only [busyTick_len, busyTick_crcout, busyTick_tmomult, busyTick_result, busyTick_drv,
      busyTick_phase] at hlen hcrc htm hres hdrv
    refine ⟨fun hne => absurd hlen hne, fun hne => absurd htm hne, fun hne => absurd hcrc hne,
      fun hne => ⟨hres.resolve_left hne, .inl hp⟩, fun h0 h1 => ?active, fun h0 h1 => ?passive⟩
    case active =>
      rcases hdrv with hkept | ⟨hpassive, -⟩ | ⟨hidle, -⟩ | hslot
      · exact absurd (h1.symm.trans (hkept.trans h0)) (by decide)
      · exact absurd (h1.symm.trans hpassive) (by decide)
      · exact .inl hidle
      · exact .inr hslot
    case passive =>
      rcases hdrv with hkept | ⟨-, hidle⟩ | ⟨-, hactive⟩ | hslot
      · exact absurd (h1.symm.trans (hkept.trans h0)) (by decide)
      · exact .inr (.inr ⟨hp, hidle⟩)
      · exact absurd (h1.symm.trans hactive) (by decide)
      · exact hslot.imp id .inl

end Sys2Proof.Proofs
end

section
/-! SUPPORT. One step: reset, the host port, and how an instruction comes to run (spec:
`70_reset_and_hazards.md` R195, `44_host_interface.md` R161 to R165, `40_timer_busline.md` R81). -/

namespace Sys2Proof.Proofs

open Sys2Proof.Machine

/-- Settles O8: the reset step writes every register of R38's table. -/
theorem resetStepResetsEverything : Obligations.ResetStepResetsEverything := by
  intro s hr
  exact ⟨_, step_of_reset hr, rfl, rfl, rfl, rfl, rfl, rfl, rfl, rfl, rfl, rfl, rfl, rfl, rfl,
    status_eq_zero_of_idle rfl, rfl, accessUnderReset_params _ _, accessUnderReset_inputs _ _⟩

/-- Settles O12: of a busy access only the read answer is left. -/
theorem busyTickCountsOne : Obligations.BusyTickCountsOne := fun s => ⟨_, busyTick_eq s⟩

/-! ### The host port of an idle block -/

/-- A step of an idle block is the access it is presented. -/
theorem step_of_access {s : State} {a : Access} (hr : s.input.rst = false) (hp : s.phase = .idle)
    (ha : s.input.access = some a) : step s = hostAccess (some a) s.advance := by
  rw [step_of_idle hr hp, ha]

/-- Settles O9: address 0x11 is `CMD`. -/
theorem stepRunsWrittenCommand : Obligations.StepRunsWrittenCommand :=
  fun _ _ hr hp ha => step_of_access hr hp ha

/-- Settles O21: a reserved byte decodes to the instruction that does nothing. -/
theorem reservedCommandChangesNothing : Obligations.ReservedCommandChangesNothing := by
  refine ⟨fun _ _ => rfl, fun s v h1 h2 h3 hr hp ha => ?_⟩
  rw [stepRunsWrittenCommand s v hr hp ha, decodeCmd_of_reserved h1 h2 h3]
  rfl

/-- R48: the addresses below 12 are the buffer's. -/
theorem hostReg_of_le {a : BitVec 5} (h : a.toNat ≤ 11) : hostReg a = .fb a.toNat :=
  if_pos (Nat.lt_succ_of_le h)

/-- Settles O14: a read answers with the register its address names. -/
theorem idleReadReturnsRegister : Obligations.IdleReadReturnsRegister := by
  intro s a hr hp ha
  refine ⟨s.advance.readReg a, step_of_access hr hp ha, fun h => ?buffer, ?len, ?cmd, ?status, ?result,
    ?crcout, ?tmomult⟩
  case buffer => rw [State.readReg, hostReg_of_le h]; rfl
  case status => rintro rfl; exact status_eq_zero_of_idle hp
  case len | cmd | result | crcout | tmomult => rintro rfl; rfl

/-- R48: the addresses no register has. -/
theorem hostReg_of_reserved {a : BitVec 5} (h : 12 ≤ a.toNat ∧ a.toNat ≤ 15 ∨ 22 ≤ a.toNat) :
    hostReg a = .reserved := by
  revert a; decide

/-- Settles O15: a write stores to the register its address names, or to none. -/
theorem idleWriteStoresRegister : Obligations.IdleWriteStoresRegister := by
  intro s a v hr hp ha
  have hstep : step s = hostWrite a v s.advance := step_of_access hr hp ha
  refine ⟨fun h => ?buffer, ?len, ?tmomult, fun h => ?read_only, fun h => ?reserved⟩
  case buffer =>
    rw [hostWrite, hostReg_of_le h] at hstep
    exact ⟨_, hstep, fbByte_set_self _ _ _, fun j => fbByte_set_other s.advance _ j v⟩
  case len | tmomult => rintro rfl; exact hstep
  case read_only => rcases h with rfl | rfl | rfl <;> exact hstep
  case reserved => rw [hstep, hostWrite, hostReg_of_reserved h]

/-! ### Fields the rules do not read -/

/-- The state with another read answer and another `TMOMULT`. -/
def relabel (r : Option Byte) (m : Byte) (s : State) : State := { s with rdata := r, tmomult := m }

/-- What is answered, with the next state changed by `f`. -/
def mapNext (f : State → State) : Outcome → Outcome
  | .next t => .next (f t)
  | .fault e => .fault e
  | .refused e => .refused e

section
variable (r : Option Byte) (m : Byte) (s : State)

/-- The byte store reads neither the read answer nor `TMOMULT`. -/
theorem storeByte_relabel (v : Byte) :
    storeByte v (relabel r m s) = mapNext (relabel r m) (storeByte v s) := by
  have hn : (relabel r m s).nbytes = s.nbytes := rfl
  rcases Nat.lt_trichotomy s.nbytes.toNat 11 with hlt | heq | hgt
  · rw [storeByte_of_lt _ _ (hn ▸ hlt), storeByte_of_lt _ _ hlt]; rfl
  · rw [storeByte_of_eq _ _ (hn ▸ heq), storeByte_of_eq _ _ heq]; rfl
  · rw [storeByte_of_gt _ _ (hn ▸ hgt), storeByte_of_gt _ _ hgt]; rfl

theorem takeBit_relabel (b : Bool) (lv : Level) :
    takeBit b lv (relabel r m s) = mapNext (relabel r m) (takeBit b lv s) := by
  have hn : (relabel r m s).nbits = s.nbits := rfl
  by_cases h7 : s.nbits < 7
  · rw [takeBit_of_lt _ _ _ (hn ▸ h7), takeBit_of_lt _ _ _ h7]; rfl
  · have h7 := nbits_eq_seven _ h7
    rw [takeBit_of_seven _ _ _ (hn ▸ h7), takeBit_of_seven _ _ _ h7]
    exact storeByte_relabel r m (bitTaken b lv s) _

/-- `next_slot` reads neither the read answer nor `TMOMULT`. -/
theorem nextSlot_relabel : nextSlot (relabel r m s) = mapNext (relabel r m) (nextSlot s) := by
  have hbits : slotBits (relabel r m s) = slotBits s := rfl
  unfold nextSlot
  rw [hbits]
  by_cases hn : s.nbytes.toNat = s.len.toNat
  · rw [if_pos hn]; exact if_pos hn
  · rw [if_neg hn]
    refine (if_neg hn).trans ?_
    cases slotBits s <;> rfl

/-- A condition on both sides of a relabelled answer. -/
theorem ite_mapNext (f : State → State) (c : Prop) [Decidable c] {a b a' b' : Outcome}
    (ha : a = mapNext f a') (hb : b = mapNext f b') :
    (if c then a else b) = mapNext f (if c then a' else b') := by
  split
  · exact ha
  · exact hb

/-- No instruction reads the read answer or `TMOMULT` (R34, R112). -/
theorem exec_relabel (i : Instr) : exec i (relabel r m s) = mapNext (relabel r m) (exec i s) := by
  cases i with
  | recv | crc => exact ite_mapNext _ _ rfl rfl
  | xmit => exact ite_mapNext _ _ (ite_mapNext _ _ rfl rfl) rfl
  | pShort | pMid | pLong | pOver | aShort | aMid | aLong | aOver => exact takeBit_relabel r m s _ _
  | _ => rfl

theorem rxPhase_relabel (lv : Level) :
    rxPhase lv (relabel r m s) = mapNext (relabel r m) (rxPhase lv s) := by
  have hcode : symbolCode (relabel r m s) lv = symbolCode s lv := rfl
  cases hw : symbolCode s lv with
  | none => rw [rxPhase_of_none hw, rxPhase_of_none (hcode.trans hw)]; rfl
  | some w =>
    obtain ⟨i, hi⟩ := symbolCode_decodes hw
    rw [rxPhase_of_code hw hi, rxPhase_of_code (hcode.trans hw) hi]
    exact exec_relabel r m s i

/-- The rule of a busy tick reads neither the read answer nor `TMOMULT`. -/
theorem phaseRule_relabel (lv : Level) :
    phaseRule lv (relabel r m s) = mapNext (relabel r m) (phaseRule lv s) := by
  have hp : (relabel r m s).phase = s.phase := rfl
  unfold phaseRule
  rw [hp]
  cases s.phase with
  | idle => rfl
  | rxWait | rxSof | rxBit => exact rxPhase_relabel r m s lv
  | txIdle => exact ite_mapNext _ _ rfl (ite_mapNext _ _ rfl rfl)
  | txSof => exact ite_mapNext _ _ (nextSlot_relabel r m s) rfl
  | txBit => exact ite_mapNext _ _ rfl (ite_mapNext _ _ (nextSlot_relabel r m s) rfl)
  | txEof => exact ite_mapNext _ _ rfl rfl

end

/-- What a busy step answers from a state whose tick hands on a relabelled state. -/
theorem step_relabel {s s' t : State} {r : Option Byte} {m : Byte} (hr : s.input.rst = false)
    (hp : s.phase ≠ .idle) (hi : s'.input.rst = s.input.rst ∧ s'.input.sample = s.input.sample)
    (hb : s'.busyTick = relabel r m s.busyTick) (h : step s = .next t) :
    step s' = .next (relabel r m t) := by
  have hp' : s'.phase = s.phase := by rw [← busyTick_phase s', hb, ← busyTick_phase s]; rfl
  rw [step_of_busy hr hp] at h
  rw [step_of_busy (hi.1.trans hr) (hp' ▸ hp), hi.2, hb, phaseRule_relabel, h]
  rfl

/-- R164: what the host presents to a busy block is seen in the read answer alone. -/
theorem step_of_other_access {s s' t : State} (hr : s.input.rst = false) (hp : s.phase ≠ .idle)
    (hi : s'.input.rst = s.input.rst ∧ s'.input.sample = s.input.sample)
    (ha : s'.advance = s.advance) (hn : s'.nextTicks = s.nextTicks) (h : step s = .next t) :
    step s' = .next { t with rdata := s'.busyTick.rdata } := by
  have hb : s'.busyTick = relabel s'.busyTick.rdata s.tmomult s.busyTick := by
    rw [busyTick_eq s', busyTick_eq s, ha, hn]; rfl
  obtain ⟨-, -, htmomult, -⟩ := moves_frame (step_moves hr hp h)
  have hm : t.tmomult = s.tmomult := htmomult.trans (busyTick_tmomult s)
  rw [step_relabel hr hp hi hb h, relabel, ← hm]

/-- R164: a poll of a busy block is answered 0x01. -/
theorem busyTick_rdata_of_poll {s : State} (hp : s.phase ≠ .idle)
    (ha : s.input.access = some (.rd 0x12)) : s.busyTick.rdata = some 0x01 := by
  have hb : s.advance.busy = true := decide_eq_true hp
  have hs : s.advance.status = 0x01 := by rw [State.status, hb]; rfl
  change (s.advance.accessWhileBusy s.input.access).rdata = _
  rw [ha, ← hs]
  rfl

/-- Settles O16: the two ticks differ in the read answer, which no rule reads. -/
theorem busyAccessDisturbsNothing : Obligations.BusyAccessDisturbsNothing := by
  intro s t i rest a hp hi h
  exact ⟨_, step_of_other_access (s := { s with inputs := i :: rest }) hi hp ⟨rfl, rfl⟩ rfl rfl h,
    fun ha => busyTick_rdata_of_poll hp ha⟩

/-- R34: a busy tick hands `TMOMULT` on unread. -/
theorem busyTick_tmomult_update (s : State) (v : Byte) :
    State.busyTick { s with tmomult := v } = relabel s.busyTick.rdata v s.busyTick := by
  have hread : (State.busyTick { s with tmomult := v }).rdata = s.busyTick.rdata := by
    change (State.accessWhileBusy s.input.access _).rdata = (State.accessWhileBusy s.input.access _).rdata
    rcases s.input.access with _ | addr | _
    · rfl
    · unfold State.accessWhileBusy
      dsimp only
      split <;> rfl
    · rfl
  rw [busyTick_eq, busyTick_eq s, hread]
  rfl

/-- Settles O17: the tick hands `TMOMULT` on unread, and neither a rule nor a command reads it. -/
theorem timeoutMultiplierHasNoEffect : Obligations.TimeoutMultiplierHasNoEffect := by
  intro s t v hr hc h
  by_cases hp : s.phase = .idle
  · obtain ⟨c, ha⟩ := hc.resolve_left (not_not.mpr hp)
    rw [stepRunsWrittenCommand s c hr hp ha] at h
    obtain ⟨⟨-, -, -, -, hread, -⟩, -⟩ := instructionsLeaveTheRest _ _ _ h
    have hread' : t.rdata = none := hread
    have hstep : step { s with tmomult := v } = exec (decodeCmd c) (relabel none v s.advance) :=
      stepRunsWrittenCommand { s with tmomult := v } c hr hp ha
    rw [hstep, exec_relabel, h, mapNext, relabel, ← hread']
  · obtain ⟨-, -, -, -, -, -, hread⟩ := moves_frame (step_moves hr hp h)
    rw [step_relabel (s' := { s with tmomult := v }) hr hp ⟨rfl, rfl⟩ (busyTick_tmomult_update s v) h, relabel, ← hread]

/-! ### What the next step runs -/

/-- In a receiver phase a step is the receiver's rule. -/
theorem step_rx {s : State} (hr : s.input.rst = false) (hx : s.phase.isRx = true) :
    step s = rxPhase s.input.sample s.busyTick := by
  rw [step_of_busy hr (ne_idle_of_isRx hx)]
  exact phaseRule_rx (by simpa using hx)

/-- Settles O10: the receiver decodes and runs the code of the run it has measured. -/
theorem stepRunsMeasuredSymbol : Obligations.StepRunsMeasuredSymbol := by
  intro s hr hx
  refine ⟨fun w i hw hi => ?symbol, fun hn => ?running⟩
  case symbol => rw [step_rx hr hx, rxPhase_of_code hw hi]
  case running => rw [step_rx hr hx, rxPhase_of_none hn]

/-- What log 15 says of a placed instruction: the next step runs it. -/
def RunsNext (i : Instr) (s : State) : Prop :=
  ∃ t, step s = exec i t ∧ (t = s.advance ∨ t = s.busyTick)

/-- A measured class is the decoded symbol code. -/
theorem code_of_measured {s : State} {lv : Level} {i : Instr} (h : Claims.measured s lv = some i) :
    ∃ w, symbolCode s lv = some w ∧ decodeSym w = .ok i := by
  unfold Claims.measured at h
  cases hw : symbolCode s lv with
  | none => rw [hw] at h; cases h
  | some w =>
    rw [hw] at h
    cases hi : decodeSym w with
    | error e => rw [Option.bind_some, hi] at h; cases h
    | ok j => rw [Option.bind_some, hi] at h; cases h; exact ⟨w, rfl, hi⟩

/-- A step in a receiver phase runs the class it measures. -/
theorem step_of_measured {s : State} {i : Instr} (hr : s.input.rst = false)
    (hx : s.phase.isRx = true) (h : Claims.measured s.busyTick s.input.sample = some i) :
    step s = exec i s.busyTick := by
  obtain ⟨w, hw, hi⟩ := code_of_measured h
  exact (stepRunsMeasuredSymbol s hr hx).1 w i hw hi

/-- A symbol is placed as the run the receiver measures in the coming tick. -/
theorem runsNext_of_measured {s : State} {i : Instr} (hr : s.input.rst = false)
    (hx : s.phase.isRx = true) (h : Claims.measured s.busyTick s.input.sample = some i) :
    RunsNext i s := ⟨_, step_of_measured hr hx h, .inr rfl⟩

/-- A receiver that has measured `now` ticks of level `lv` in phase `p`, with the windows of TSET-1. -/
def measuring (p : Phase) (lv : Level) (now : Nat) : State :=
  { State.reset with params := .tset1, phase := p, ref := lv, tcnt := now }

/-- The class of a run depends on the phase, the windows, the reference and `now` alone. -/
theorem measured_congr {s t : State} (lv : Level) (hp : s.phase = t.phase) (hw : s.params = t.params)
    (hr : s.ref = t.ref) (hn : s.tcnt = t.tcnt) : Claims.measured s lv = Claims.measured t lv := by
  unfold Claims.measured symbolCode
  rw [hp, hw, hr, hn]

/-- A data pulse or the end of one is placed under a reference of its own. -/
theorem runsNext_stageRun {lv next : Level} {now : Nat} {i : Instr} (s : State)
    (hn : (now - 1 + 1) % 2 ^ 16 = now)
    (h : Claims.measured (measuring .rxBit lv now) next = some i) :
    RunsNext i (s.stageRun .rxBit lv now next) :=
  runsNext_of_measured rfl rfl
    ((measured_congr (s := (s.stageRun .rxBit lv now next).busyTick) (t := measuring .rxBit lv now)
      next rfl rfl rfl hn).trans h)

/-- A command is placed as the host's write of its word. -/
theorem runsNext_stageCommand (s : State) (v : Byte) :
    RunsNext (decodeCmd v) (s.stageCommand v) :=
  ⟨_, stepRunsWrittenCommand (s.stageCommand v) v rfl rfl rfl, .inl rfl⟩

/-- R99: the end of data after `n` bytes has the effect of the result code of `n` bytes. -/
theorem exec_pHold_of_bytes {n : BitVec 7} {t : State} (h : n.toNat ≤ 12) (hp : t.phase = .rxBit)
    (hn : t.nbytes = n.setWidth 4) : exec .pHold t = exec (.resOkOrBytes n) t := by
  have hcount : t.nbytes.toNat = n.toNat := by
    rw [hn, BitVec.toNat_setWidth]; exact Nat.mod_eq_of_lt (by omega)
  have hr : successResult n t.phase = .bytes n.toNat := by
    rw [hp]; exact if_neg fun hx => Bool.false_ne_true hx.2
  rw [exec_resOkOrBytes, hr, ← hcount]
  rfl

/-- A well-formed instruction runs in the step after its placement. -/
theorem runsNext_stage {i : Instr} (h : i.wf = true) (s : State) : RunsNext i (s.stage i) := by
  cases i with
  | recv | xmit | crc => exact runsNext_stageCommand s _
  | cmdReserved v =>
    simp only [Instr.wf, Bool.and_eq_true, bne_iff_ne] at h
    obtain ⟨⟨h1, h2⟩, h3⟩ := h
    have hrun := runsNext_stageCommand s v
    rwa [decodeCmd_of_reserved h1 h2 h3] at hrun
  | resOkOrBytes n =>
    obtain ⟨t, hstep, ht⟩ := runsNext_stageRun (i := .pHold) (lv := .passive) (now := 163)
      (next := .passive) { s with nbytes := n.setWidth 4 } (by decide) (by decide)
    have hp : t.phase = .rxBit := by rcases ht with rfl | rfl <;> rfl
    have hn : t.nbytes = n.setWidth 4 := by rcases ht with rfl | rfl <;> rfl
    exact ⟨t, hstep.trans (exec_pHold_of_bytes (of_decide_eq_true h) hp hn), ht⟩
  | resNodata => exact ⟨_, step_of_measured (i := .waitTimeout) rfl rfl rfl, .inr rfl⟩
  | resBuserror => exact ⟨_, rfl, .inr rfl⟩
  | resDataerror =>
    exact ⟨_, stepRunsWrittenCommand (s.stage .resDataerror) 0x02 rfl rfl rfl, .inl rfl⟩
  | waitTimeout | waitActivity | sofTooshort | sofOk | sofToolong =>
    exact runsNext_of_measured rfl rfl rfl
  | pTooshort | pShort | pMid | pLong | pOver | pHold | aTooshort | aShort | aMid | aLong | aOver
  | aHold => exact runsNext_stageRun s (by decide) (by decide)

/-- A word of the opcode table decodes to a well-formed instruction. -/
theorem wf_of_decodeTableWord {nbits w : Nat} {i : Instr} (h : decodeTableWord nbits w = some i) :
    i.wf = true := by
  have hspec {sp : Space} {b : Byte} {j : Instr} (hj : decode sp b = .ok j) : j.wf = true :=
    (decodedCodesEncodeBack sp b j hj).1
  have hcmd (b : Byte) : (decodeCmd b).wf = true := (decodeCmd_spec b).1
  unfold decodeTableWord at h
  dsimp only at h
  split at h
  next => cases h
  split at h
  next =>
    cases hd : decode .sym (BitVec.ofNat 8 w) with
    | error e => rw [hd] at h; cases h
    | ok j => rw [hd] at h; cases h; exact hspec hd
  split at h
  next => cases h; exact hcmd _
  split at h
  next hd => cases h; exact hspec hd
  split at h
  next hd => cases h; exact hspec hd
  next => cases h; exact hcmd _

/-- Settles O11: a word of the table decodes to a well-formed instruction, and `stage` places each. -/
theorem fetchedWordRunsNext : Obligations.FetchedWordRunsNext := by
  intro s nbits w i h
  have hstage : s.withFetchWord nbits w = s.stage i := by rw [State.withFetchWord, h]
  rw [hstage]
  exact runsNext_stage (wf_of_decodeTableWord h) s

end Sys2Proof.Proofs
end

section
/-! SUPPORT. The receiver and the transmitter, tick by tick (spec: `41_receiver.md` R95 to R107,
`42_transmitter.md` R120 to R135). -/

namespace Sys2Proof.Proofs

open Sys2Proof.Machine

/-! ### The receiver -/

theorem step_wait {s : State} (hr : s.input.rst = false) (hp : s.phase = .rxWait) :
    step s = if s.input.sample = .active then exec .waitActivity s.busyTick
      else if s.params.tNoData ≤ s.nextTicks then exec .waitTimeout s.busyTick
      else .next s.busyTick := by
  rw [step_rx hr (by rw [hp]; rfl), rxPhase_wait _ _ (by simpa using hp), busyTick_params,
    busyTick_tcnt]

theorem step_sof {s : State} (hr : s.input.rst = false) (hp : s.phase = .rxSof) :
    step s = if s.input.sample = .active then
        if s.params.rxSofMax ≤ s.nextTicks then exec .sofToolong s.busyTick else .next s.busyTick
      else if s.nextTicks < s.params.rxSofMin then exec .sofTooshort s.busyTick
      else exec .sofOk s.busyTick := by
  rw [step_rx hr (by rw [hp]; rfl), rxPhase_sof _ _ (by simpa using hp), busyTick_params,
    busyTick_tcnt]

theorem step_bit {s : State} (hr : s.input.rst = false) (hp : s.phase = .rxBit) :
    step s = if s.input.sample = s.ref then
        if s.params.rxEodMin ≤ s.nextTicks then endOfData s.busyTick else .next s.busyTick
      else if s.nextTicks < s.params.rxShortMin then .next (finish (.error .busError) s.busyTick)
      else takeBit (bitval s.params s.ref s.nextTicks) s.input.sample s.busyTick := by
  rw [step_rx hr (by rw [hp]; rfl), rxPhase_bit _ _ (by simpa using hp), busyTick_params,
    busyTick_tcnt, busyTick_ref]

theorem level_ne_active {lv : Level} (h : lv = .passive) : lv ≠ .active := by rw [h]; decide

/-- Settles O37: the level is tested before the window. -/
theorem waitPhaseStep : Obligations.WaitPhaseStep := by
  intro s hr hp
  rw [step_wait hr hp]
  refine ⟨fun hl => if_pos hl, fun hl ht => ?timeout, fun hl ht => ?running⟩
  case timeout => exact (if_neg (level_ne_active hl)).trans (if_pos ht)
  case running => exact (if_neg (level_ne_active hl)).trans (if_neg (Nat.not_le.mpr ht))

/-- Settles O38: an active sample is held against the upper end of the window, a passive one against
the lower. -/
theorem sofPhaseStep : Obligations.SofPhaseStep := by
  intro s hr hp
  rw [step_sof hr hp]
  refine ⟨fun hl ht => ?too_long, fun hl ht => ?running, fun hl ht => ?too_short, fun hl ht => ?ok⟩
  case too_long => exact (if_pos hl).trans (if_pos ht)
  case running => exact (if_pos hl).trans (if_neg (Nat.not_le.mpr ht))
  case too_short => exact (if_neg (level_ne_active hl)).trans (if_pos ht)
  case ok => exact (if_neg (level_ne_active hl)).trans (if_neg (Nat.not_lt.mpr ht))

/-- Settles O39: while the level stands the run ends or goes on; a changed level ends a pulse. -/
theorem bitPhaseEndsOrContinues : Obligations.BitPhaseEndsOrContinues := by
  intro s hr hp
  rw [step_bit hr hp]
  refine ⟨fun hl ht => ?hold, fun hl ht => ?running, fun hl ht => ?too_short⟩
  case hold =>
    rw [if_pos hl, if_pos ht, endOfData, finish_bytes_eq_completed, busyTick_nbytes]
  case running => exact (if_pos hl).trans (if_neg (Nat.not_le.mpr ht))
  case too_short => exact (if_neg hl).trans (if_pos ht)

/-- R101: a completed pulse that is long enough is taken, with the bit of R58. -/
theorem step_pulse {s : State} (hr : s.input.rst = false) (hp : s.phase = .rxBit)
    (hl : s.input.sample ≠ s.ref) (ht : s.params.rxShortMin ≤ s.nextTicks) :
    step s = takeBit (bitval s.params s.ref s.nextTicks) s.input.sample s.busyTick := by
  rw [step_bit hr hp, if_neg hl, if_neg (Nat.not_lt.mpr ht)]

/-- R58: a set bit is a short passive or a long active pulse. -/
theorem bitval_iff (P : Params) (lv : Level) (d : Nat) :
    bitval P lv d = true ↔ isShort P d ∧ lv = .passive ∨ isLong P d ∧ lv = .active := by
  cases lv <;> simp [bitval]

/-- Settles O40: the bit written out in the statement is `bitval`. -/
theorem bitPhaseTakesBitOfPulse : Obligations.BitPhaseTakesBitOfPulse := by
  intro s hr hp hl ht hn b hb
  have hbit : b = bitval s.params s.ref s.nextTicks := by
    rw [Bool.eq_iff_iff, hb, bitval_iff, and_assoc, and_assoc]
  rw [step_pulse hr hp hl ht, ← hbit, takeBit_of_lt _ _ _ (by simpa using BitVec.lt_def.mpr hn),
    bitTaken_eq, busyTick_shreg, busyTick_nbits]

/-- Settles O41: the eighth bit goes to the byte store, which completes with the twelfth byte. -/
theorem bitPhaseStoresWholeBytes : Obligations.BitPhaseStoresWholeBytes := by
  intro s hr hp hl ht h7 h11
  have hstep := step_pulse hr hp hl ht
  generalize bitval s.params s.ref s.nextTicks = b at hstep ⊢
  rw [takeBit_of_seven _ _ _ (BitVec.eq_of_toNat_eq ((congrArg _ (busyTick_nbits s)).trans h7)),
    busyTick_shreg, shiftIn_eq_shifted] at hstep
  have hn : (bitTaken b s.input.sample s.busyTick).nbytes = s.nbytes := busyTick_nbytes s
  have hself := byteStored_fbByte_self (Claims.shifted s.shreg b) (bitTaken b s.input.sample s.busyTick)
  have hother := fun j => byteStored_fbByte_other (j := j) (Claims.shifted s.shreg b)
    (bitTaken b s.input.sample s.busyTick)
  have hcount := byteStored_nbytes (s := bitTaken b s.input.sample s.busyTick)
    (Claims.shifted s.shreg b) (hn ▸ h11)
  rw [hn] at hself hother hcount
  have hfb (j : Nat) : (bitTaken b s.input.sample s.busyTick).fbByte j = s.fbByte j :=
    busyTick_fbByte s j
  rcases Nat.lt_or_eq_of_le h11 with hlt | heq
  · rw [storeByte_of_lt _ _ (hn ▸ hlt)] at hstep
    exact ⟨_, hstep, hself, fun j hj => (hother j hj).trans (hfb j), rfl, hcount, rfl, rfl,
      fun _ => ⟨(busyTick_phase s).trans hp, busyTick_result s⟩, fun h => absurd h hlt.ne⟩
  · rw [storeByte_of_eq _ _ (hn ▸ heq)] at hstep
    exact ⟨_, hstep, hself, fun j hj => (hother j hj).trans (hfb j), rfl, hcount, rfl, rfl,
      fun h => absurd heq h.ne, fun _ => ⟨rfl, rfl, rfl, rfl⟩⟩

/-- The moves of a tick write one byte of the buffer at most, the one a receive counts (R46, R107). -/
theorem moves_fbByte {lv : Level} {u t : State} (h : Moves lv u t) (j : Nat) :
    t.fbByte j = u.fbByte j ∨
      (u.phase = .rxBit ∧ j = u.nbytes.toNat ∧ t.nbytes = u.nbytes + 1 ∧ u.nbits = 7) := by
  cases h with
  | byte hp _ _ hn | cap hp _ _ hn =>
    by_cases hj : j = u.nbytes.toNat
    · exact .inr ⟨hp, hj, rfl, hn⟩
    · exact .inl (byteStored_fbByte_other _ (bitTaken _ lv u) hj)
  | _ => exact .inl rfl

/-- R29: only a new slot writes `DUR`; R25: only a receive writes `REF`. -/
theorem moves_dur_ref {lv : Level} {u t : State} (h : Moves lv u t) :
    (t.dur = u.dur ∨ u.phase.isTx = true) ∧ (t.ref = u.ref ∨ u.phase.isRx = true) := by
  cases h with
  | sofOk hp | bit hp | byte hp | cap hp => exact ⟨.inl rfl, .inr (by rw [hp]; rfl)⟩
  | slot hp => exact ⟨.inr (by rcases hp with ⟨hp, -⟩ | ⟨hp, -⟩ <;> rw [hp] <;> rfl), .inl rfl⟩
  | _ => exact ⟨.inl rfl, .inl rfl⟩

/-- Settles O42: the frame of the moves, read for a receiver phase. -/
theorem receiveLeavesTheRest : Obligations.ReceiveLeavesTheRest := by
  intro s t hr hx h
  have hm := step_moves hr (ne_idle_of_isRx hx) h
  have htx : s.busyTick.phase.isTx = false := by rw [busyTick_phase]; exact isTx_eq_false_of_isRx hx
  obtain ⟨hlen, hcrc, htm, -⟩ := moves_frame hm
  have hdur := (moves_dur_ref hm).1.resolve_right (by rw [htx]; decide)
  refine ⟨hlen.trans (busyTick_len s), hcrc.trans (busyTick_crcout s), htm.trans (busyTick_tmomult s),
    hdur.trans (busyTick_dur s), ?drv, fun j => ?buffer⟩
  case drv =>
    rcases moves_drv hm with hd | ⟨hd, -⟩ | hsend
    · exact .inl (hd.trans (busyTick_drv s))
    · exact .inr hd
    · rcases hsend with ⟨hp, -⟩ | hp | hp <;> rw [hp] at htx <;> cases htx
  case buffer => simpa using (moves_fbByte hm j).imp_right And.right

/-! ### The transmitter -/

theorem step_txIdle {s : State} (hr : s.input.rst = false) (hp : s.phase = .txIdle) :
    step s = txIdlePhase s.input.sample s.busyTick := by
  rw [step_of_busy hr (by rw [hp]; decide), phaseRule, busyTick_phase, hp]

theorem step_txSof {s : State} (hr : s.input.rst = false) (hp : s.phase = .txSof) :
    step s = txSofPhase s.busyTick := by
  rw [step_of_busy hr (by rw [hp]; decide), phaseRule, busyTick_phase, hp]

theorem step_txBit {s : State} (hr : s.input.rst = false) (hp : s.phase = .txBit) :
    step s = txBitPhase s.input.sample s.busyTick := by
  rw [step_of_busy hr (by rw [hp]; decide), phaseRule, busyTick_phase, hp]

theorem step_txEof {s : State} (hr : s.input.rst = false) (hp : s.phase = .txEof) :
    step s = txEofPhase s.busyTick := by
  rw [step_of_busy hr (by rw [hp]; decide), phaseRule, busyTick_phase, hp]

/-- Settles O43: activity is tested before the count. -/
theorem idleWaitStep : Obligations.IdleWaitStep := by
  intro s hr hp
  rw [step_txIdle hr hp, txIdlePhase, busyTick_params, busyTick_tcnt]
  refine ⟨fun hl => if_pos hl, fun hl ht => ?confirmed, fun hl ht => ?waiting⟩
  case confirmed => exact (if_neg (level_ne_active hl)).trans (if_pos ht)
  case waiting => exact (if_neg (level_ne_active hl)).trans (if_neg (Nat.not_le.mpr ht))

/-- R126: the end of frame completes with `Ok`. -/
theorem exec_ok_of_txEof {s : State} (hp : s.phase = .txEof) :
    exec (.resOkOrBytes 0) s = .next (Claims.completed 0x00 .ok s) :=
  (successCodeCompletes 0 s).1 rfl (by rw [hp]; rfl)

/-- Settles O44: a collision is tested before the end of the slot. -/
theorem transmitPhaseSteps : Obligations.TransmitPhaseSteps := by
  intro s hr
  refine ⟨fun hp => ?sof, fun hp => ⟨fun hd hl => ?collision, fun h => ?slot⟩, fun hp => ?eof⟩
  case sof => rw [step_txSof hr hp, txSofPhase, busyTick_params, busyTick_tcnt]
  case collision =>
    rw [step_txBit hr hp, txBitPhase, if_pos ⟨(busyTick_drv s).trans hd, hl⟩]
    rfl
  case slot =>
    have hc : ¬(s.busyTick.drv = .passive ∧ s.input.sample = .active) := by
      rintro ⟨hd, hl⟩
      rw [busyTick_drv] at hd
      rcases h with h | h
      · rw [h] at hd; cases hd
      · rw [h] at hl; cases hl
    rw [step_txBit hr hp, txBitPhase, if_neg hc, busyTick_dur, busyTick_tcnt]
  case eof =>
    rw [step_txEof hr hp, txEofPhase, exec_ok_of_txEof ((busyTick_phase s).trans hp),
      busyTick_params, busyTick_tcnt]

/-- R59, written out. -/
theorem txdur_eq (P : Params) (lv : Level) (b : Bool) :
    txdur P lv b = if lv = .passive ∧ b = false ∨ lv = .active ∧ b = true then P.txLong
      else P.txShort := by
  cases lv <;> cases b <;> rfl

/-- R124: the byte whose top bit is sent next. -/
theorem slotBits_eq {s : State} (h : s.nbits = 0 → s.nbytes.toNat ≤ 11) :
    slotBits s = some (if s.nbits = 0 then s.fbByte s.nbytes.toNat else s.shreg) := by
  unfold slotBits
  split
  next h0 => exact fbRead_of_lt _ _ (Nat.lt_succ_of_le (h h0))
  next => rfl

/-- R124: `next_slot` before the end of the frame. -/
theorem nextSlot_of_ne {s : State} (hn : s.nbytes.toNat ≠ s.len.toNat)
    (h : s.nbits = 0 → s.nbytes.toNat ≤ 11) :
    nextSlot s =
      .next (startSlot (if s.nbits = 0 then s.fbByte s.nbytes.toNat else s.shreg) s) := by
  rw [nextSlot, if_neg hn, slotBits_eq h]

/-- Settles O45: the end of the frame is tested before the byte is fetched. -/
theorem nextSlotSendsNextBit : Obligations.NextSlotSendsNextBit := by
  intro s
  refine ⟨fun hn => if_pos hn, fun hn h v lv d hv hlv hd => ?_⟩
  have hbits : s.nbits + 1 = if s.nbits = 7 then 0 else s.nbits + 1 := by
    split
    next h7 => rw [h7]; rfl
    next => rfl
  rw [nextSlot_of_ne hn h, ← hv, ← hbits]
  have hlv' : slotLevel (slotPosition s) = lv := hlv.symm
  have hd' : txdur s.params lv v.msb = d := by rw [txdur_eq, hd]; rfl
  simp only [startSlot, hlv', hd']
  rfl

/-- R127: where the rule does not look at the sample, the tick decides alone. -/
theorem step_eq_of_busyTick_eq {s s' : State} (hr : s.input.rst = false) (hr' : s'.input.rst = false)
    (hb : s'.busyTick = s.busyTick)
    (h : s.phase = .txSof ∨ s.phase = .txEof ∨ s.phase = .txBit ∧ s.drv = .active) :
    step s = step s' := by
  have hp' : s'.phase = s.phase := by rw [← busyTick_phase s', hb, busyTick_phase]
  rcases h with hp | hp | ⟨hp, hd⟩
  · rw [step_txSof hr hp, step_txSof hr' (hp'.trans hp), hb]
  · rw [step_txEof hr hp, step_txEof hr' (hp'.trans hp), hb]
  · have hc (lv : Level) : ¬(s.busyTick.drv = .passive ∧ lv = .active) := by
      rw [busyTick_drv, hd]; exact fun h => nomatch h.1
    rw [step_txBit hr hp, step_txBit hr' (hp'.trans hp), hb, txBitPhase, txBitPhase, if_neg (hc _),
      if_neg (hc _)]

/-- Settles O46: two ticks that differ in the sample hand their rule the same state. -/
theorem sampleIgnoredWhileDriving : Obligations.SampleIgnoredWhileDriving :=
  fun s i rest lv hr h =>
    step_eq_of_busyTick_eq (s := { s with inputs := i :: rest })
      (s' := { s with inputs := { i with sample := lv } :: rest }) hr hr rfl h

/-- R125: of the moves of a transmit only the collision completes with `BusError`. -/
theorem moves_collision {lv : Level} {u t : State} (h : Moves lv u t) (hx : u.phase.isTx = true)
    (hidle : t.phase = .idle) (htag : t.resultTag = some (.error .busError)) :
    u.drv = .passive ∧ lv = .active := by
  cases h with
  | collision _ hd hl => exact ⟨hd, hl⟩
  | done => cases htag
  | waitOn hp | noData hp | sofOn hp | sofTooLong hp | sofTooShort hp | runOn hp | endOfData hp
  | pulseTooShort hp | bit hp | byte hp | cap hp => rw [hp] at hx; cases hx
  | idleRestart | idleOn | txSofOn | slotOn | eofOn => exact absurd hidle (ne_idle_of_isTx hx)
  | activity | sofOk | idleConfirmed | slot | frameEnd => cases hidle

/-- R90: an active wire this node does not drive is driven by another. -/
theorem others_active_of_busLevel {s : State} (hb : s.busLevel = .active) (hd : s.drv = .passive) :
    s.input.others = .active := by
  unfold State.busLevel State.drvOut at hb
  split at hb
  next h => exact h.resolve_left (by rw [hd]; decide)
  next => cases hb

/-- Settles O47: a collision is seen in a released slot, so the level on the wire is another node's. -/
theorem collisionNeedsAnotherNode : Obligations.CollisionNeedsAnotherNode := by
  intro s t hr hx hread h hidle htag
  obtain ⟨hd, hl⟩ := moves_collision (step_moves hr (ne_idle_of_isTx hx) h)
    ((congrArg _ (busyTick_phase s)).trans hx) hidle htag
  rw [busyTick_drv] at hd
  exact ⟨others_active_of_busLevel (hread.symm.trans hl) hd, hd⟩

/-- Settles O48: the frame of the moves, read for a transmit phase. -/
theorem transmitLeavesTheRest : Obligations.TransmitLeavesTheRest := by
  intro s t hr hx h
  have hm := step_moves hr (ne_idle_of_isTx hx) h
  have hrx : s.busyTick.phase.isRx = false := by
    rw [busyTick_phase]
    exact Bool.eq_false_of_not_eq_true fun h => by rw [isTx_eq_false_of_isRx h] at hx; cases hx
  obtain ⟨hlen, hcrc, htm, -⟩ := moves_frame hm
  have href := (moves_dur_ref hm).2.resolve_right (by rw [hrx]; decide)
  refine ⟨hlen.trans (busyTick_len s), hcrc.trans (busyTick_crcout s), htm.trans (busyTick_tmomult s),
    href.trans (busyTick_ref s), fun j => ?buffer, fun hp => ?result⟩
  case buffer =>
    rcases moves_fbByte hm j with hj | ⟨hp, -⟩
    · exact hj.trans (busyTick_fbByte s j)
    · rw [hp] at hrx; cases hrx
  case result => exact ((moves_result hm).resolve_right hp).trans (busyTick_result s)

end Sys2Proof.Proofs
end

section
/-! SUPPORT. Runs of a busy block on given samples (spec: `41_receiver.md` R97, R109, `42_transmitter.md`
R133). -/

namespace Sys2Proof.Proofs

open Sys2Proof.Machine

/-- The coming samples are those of the list, with no reset among them. -/
def Samples (s : State) (ls : List Level) : Prop :=
  ∃ ts : List TickIn, s.Coming ts ∧ ts.map (·.sample) = ls

theorem samples_cons {s : State} {l : Level} {ls : List Level} (h : Samples s (l :: ls)) :
    s.input.rst = false ∧ s.input.sample = l ∧
      ∀ t : State, t.inputs = s.inputs.tail → Samples t ls := by
  obtain ⟨ts, hc, hl⟩ := h
  obtain ⟨i, rest, rfl, rfl, rfl⟩ := List.map_eq_cons_iff.mp hl
  obtain ⟨hi, hr, hnext⟩ := coming_cons hc
  exact ⟨hi ▸ hr, congrArg _ hi, fun t ht => ⟨rest, hnext t ht, rfl⟩⟩

/-- A busy step uses up one input. -/
theorem step_inputs {s t : State} (hr : s.input.rst = false) (hp : s.phase ≠ .idle)
    (h : step s = .next t) : t.inputs = s.inputs.tail := by
  obtain ⟨-, -, -, -, -, hin, -⟩ := moves_frame (step_moves hr hp h)
  exact hin.trans (busyTick_inputs s)

/-- `u` is `s` after `m` further counts of its timer; what the host was answered and the model's own
counters aside, nothing else has changed. -/
def Later (m : Nat) (s u : State) : Prop :=
  ∃ r i n f, u = { s with tcnt := s.tcnt + m, rdata := r, inputs := i, tick := n, fresh := f }

theorem later_zero (s : State) : Later 0 s s := ⟨_, _, _, _, rfl⟩

theorem later_trans {m n : Nat} {s u v : State} (h : Later m s u) (h' : Later n u v) :
    Later (m + n) s v := by
  obtain ⟨_, _, _, _, rfl⟩ := h
  obtain ⟨r, i, k, f, rfl⟩ := h'
  exact ⟨r, i, k, f, by simp only [Nat.add_assoc]⟩

/-- A tick that only counts, without a wrap (R81, R85). -/
theorem later_busyTick {s : State} (h : s.nextTicks = s.tcnt + 1) : Later 1 s s.busyTick :=
  ⟨_, _, _, _, h ▸ busyTick_eq s⟩

theorem later_tcnt {m : Nat} {s u : State} (h : Later m s u) : u.tcnt = s.tcnt + m := by
  obtain ⟨_, _, _, _, rfl⟩ := h; rfl

theorem later_phase {m : Nat} {s u : State} (h : Later m s u) : u.phase = s.phase := by
  obtain ⟨_, _, _, _, rfl⟩ := h; rfl

theorem later_params {m : Nat} {s u : State} (h : Later m s u) : u.params = s.params := by
  obtain ⟨_, _, _, _, rfl⟩ := h; rfl

theorem later_fbByte {m : Nat} {s u : State} (h : Later m s u) (j : Nat) : u.fbByte j = s.fbByte j := by
  obtain ⟨_, _, _, _, rfl⟩ := h; rfl

theorem fits_tNoData {P : Params} (h : P.WF1) : P.fits P.tNoData := by
  obtain ⟨-, -, -, -, -, -, -, -, -, -, -, -, hfits⟩ := h
  exact hfits

theorem fits_rxEodMin {P : Params} (h : P.WF1) : P.fits P.rxEodMin := by
  obtain ⟨-, -, -, -, -, -, hfits, -⟩ := h
  exact hfits

/-- R85: below a limit that fits the timer the count does not wrap. -/
theorem later_nextTicks {m x : Nat} {s u : State} (h : Later m s u) (hx : s.params.fits x)
    (hm : s.tcnt + m < x) : u.nextTicks = s.tcnt + m + 1 := by
  obtain ⟨_, _, _, _, rfl⟩ := h
  exact Nat.mod_eq_of_lt (by have := hx.2; dsimp only; omega)

/-- A block that only counts on the next `m` samples, below a limit `x`. -/
theorem run_counting {s : State} {lv : Level} {m x : Nat} {ls : List Level} (hx : s.params.fits x)
    (hm : s.tcnt + m < x)
    (hcount : ∀ k u, k < m → Later k s u → u.nextTicks = s.tcnt + k + 1 → u.input.rst = false →
      u.input.sample = lv → step u = .next u.busyTick)
    (h : Samples s (List.replicate m lv ++ ls)) :
    ∃ u, Host.Core.run core m s = .next u ∧ Later m s u ∧ Samples u ls := by
  induction m generalizing ls with
  | zero => exact ⟨s, rfl, later_zero s, h⟩
  | succ m ih =>
    rw [List.replicate_succ', List.append_assoc] at h
    obtain ⟨u, hrun, hlater, hsamples⟩ :=
      ih (by omega) (fun k u hk => hcount k u (Nat.lt_succ_of_lt hk)) h
    obtain ⟨hr, hl, hnext⟩ := samples_cons hsamples
    have hticks := later_nextTicks hlater hx (by omega)
    have hstep := hcount m u (Nat.lt_succ_self m) hlater hticks hr hl
    refine ⟨u.busyTick, ?_, later_trans hlater (later_busyTick ?_), hnext _ (busyTick_inputs u)⟩
    · rw [run_add hrun, run_succ hstep]; rfl
    · rw [hticks, later_tcnt hlater]

/-! ### A silent bus -/

/-- R97: on passive samples `RX_WAIT` counts up to the end of its window. -/
theorem run_waiting {s : State} (h1 : s.params.WF1) (hp : s.phase = .rxWait) (h0 : s.tcnt = 0)
    {m : Nat} {ls : List Level} (hm : m < s.params.tNoData)
    (h : Samples s (List.replicate m .passive ++ ls)) :
    ∃ u, Host.Core.run core m s = .next u ∧ Later m s u ∧ Samples u ls := by
  refine run_counting (fits_tNoData h1) (by omega) (fun k u hk hu ht hr hl => ?_) h
  obtain ⟨-, -, hon⟩ := waitPhaseStep u hr ((later_phase hu).trans hp)
  exact hon hl (by rw [ht, later_params hu]; omega)

/-- Settles O56: the block waits below the window and completes at its end. -/
theorem silentBusGivesNoData : Obligations.SilentBusGivesNoData := by
  intro s ts h1 hp h0 hc hpassive hlen
  have hsamples : Samples s (List.replicate s.params.tNoData .passive) := by
    refine ⟨ts, hc, List.eq_replicate_iff.mpr ⟨by rw [List.length_map, hlen], fun l hl => ?_⟩⟩
    obtain ⟨t, ht, rfl⟩ := List.mem_map.mp hl
    exact hpassive t ht
  have hwait (k : Nat) (hk : k < s.params.tNoData) : ∃ u, Host.Core.run core k s = .next u ∧
      Later k s u ∧ Samples u (List.replicate (s.params.tNoData - k) .passive) := by
    refine run_waiting h1 hp h0 hk ?_
    rwa [← List.replicate_add, Nat.add_sub_cancel' hk.le]
  refine ⟨fun k hk => ?waiting, ?completed⟩
  case waiting =>
    obtain ⟨u, hrun, hu, -⟩ := hwait k hk
    exact ⟨u, hrun, (later_phase hu).trans hp, by rw [later_tcnt hu, h0, Nat.zero_add]⟩
  case completed =>
    obtain ⟨k, hk⟩ : ∃ k, s.params.tNoData = k + 1 :=
      ⟨_, (Nat.sub_add_cancel (fits_tNoData h1).1).symm⟩
    obtain ⟨u, hrun, hu, hnext⟩ := hwait k (by omega)
    rw [hk, Nat.add_sub_cancel_left] at hnext
    obtain ⟨hr, hl, -⟩ := samples_cons hnext
    have hticks := later_nextTicks hu (fits_tNoData h1) (by omega)
    obtain ⟨-, htimeout, -⟩ := waitPhaseStep u hr ((later_phase hu).trans hp)
    have hstep := htimeout hl (by rw [hticks, later_params hu]; omega)
    refine ⟨Claims.completed 0x81 (.error .noData) u.busyTick, ?_, rfl, rfl,
      fun j => (busyTick_fbByte u j).trans (later_fbByte hu j)⟩
    rw [hk, run_add hrun, run_succ hstep]
    rfl

/-! ### The bound of a receive -/

/-- R109: the ticks a receive has left at most: what its phase has left of its window, and the phases and
the bits after it. -/
def ticksLeft (s : State) : Nat :=
  match s.phase with
  | .rxWait => s.params.tNoData - s.tcnt + s.params.rxSofMax + 96 * s.params.rxEodMin
  | .rxSof => s.params.rxSofMax - s.tcnt + 96 * s.params.rxEodMin
  | .rxBit => s.params.rxEodMin - s.tcnt + (95 - s.slotsStarted) * s.params.rxEodMin
  | .idle | .txIdle | .txSof | .txBit | .txEof => 0

theorem ticksLeft_wait {s : State} (h : s.phase = .rxWait) :
    ticksLeft s = s.params.tNoData - s.tcnt + s.params.rxSofMax + 96 * s.params.rxEodMin := by
  rw [ticksLeft, h]

theorem ticksLeft_sof {s : State} (h : s.phase = .rxSof) :
    ticksLeft s = s.params.rxSofMax - s.tcnt + 96 * s.params.rxEodMin := by
  rw [ticksLeft, h]

theorem ticksLeft_bit {s : State} (h : s.phase = .rxBit) :
    ticksLeft s = s.params.rxEodMin - s.tcnt + (95 - s.slotsStarted) * s.params.rxEodMin := by
  rw [ticksLeft, h]

/-- R109: the bound of every phase of a receive. -/
theorem ticksLeft_lt {s : State} (h1 : s.params.WF1) :
    ticksLeft s <
      s.params.tNoData + s.params.rxSofMax + 96 * s.params.rxEodMin + s.params.rxEodMin := by
  have hpos : 1 ≤ s.params.rxEodMin := (fits_rxEodMin h1).1
  have hbits : (95 - s.slotsStarted) * s.params.rxEodMin ≤ 95 * s.params.rxEodMin :=
    Nat.mul_le_mul_right _ (Nat.sub_le 95 _)
  unfold ticksLeft
  split <;> omega

/-- R109: one more bit leaves one less window of `RX_EOD_MIN`. -/
theorem bits_left_succ {n e : Nat} (hn : n < 95) : e + (95 - (n + 1)) * e = (95 - n) * e := by
  obtain ⟨m, hm⟩ : ∃ m, 95 - n = m + 1 := ⟨94 - n, by omega⟩
  rw [hm, show 95 - (n + 1) = m by omega, Nat.succ_mul, Nat.add_comm]

/-- R101, R102: a bit received is one bit less to come, within a byte and at its end. -/
theorem slotsStarted_bit {u : State} {b : Bool} {lv : Level} (hn : u.nbits < 7) :
    ({ bitTaken b lv u with nbits := u.nbits + 1 } : State).slotsStarted = u.slotsStarted + 1 := by
  change 8 * u.nbytes.toNat + (u.nbits + 1).toNat = 8 * u.nbytes.toNat + u.nbits.toNat + 1
  bv_omega

theorem slotsStarted_byte {u : State} {b : Bool} {lv : Level} {v : Byte} (hn : u.nbits = 7)
    (hb : u.nbytes.toNat < 11) :
    (byteStored v (bitTaken b lv u)).slotsStarted = u.slotsStarted + 1 := by
  change 8 * (u.nbytes + 1).toNat + (0 : BitVec 3).toNat = 8 * u.nbytes.toNat + u.nbits.toNat + 1
  rw [hn]
  bv_omega

/-- What a bit phase has left when its timer has just been restarted. -/
theorem ticksLeft_bit_restarted {t : State} (hp : t.phase = .rxBit) (h0 : t.tcnt = 0) :
    ticksLeft t = t.params.rxEodMin + (95 - t.slotsStarted) * t.params.rxEodMin := by
  rw [ticksLeft_bit hp, h0, Nat.sub_zero]

/-- A bit taken within the window leaves one window less. -/
theorem ticksLeft_of_bit {u t : State} {c : Nat} (hu : u.phase = .rxBit) (ht : t.phase = .rxBit)
    (hw : t.params = u.params) (h0 : t.tcnt = 0) (hb : c < u.params.rxEodMin)
    (hn : u.slotsStarted < 95) (hcount : t.slotsStarted = u.slotsStarted + 1) :
    ticksLeft t < ticksLeft { u with tcnt := c } := by
  rw [ticksLeft_bit_restarted ht h0, ticksLeft_bit (by exact hu), hw, hcount,
    bits_left_succ (e := u.params.rxEodMin) hn]
  exact Nat.lt_add_of_pos_left (Nat.sub_pos_of_lt hb)

/-- Every tick of a receive ends it or brings its end one tick nearer (R109); `c` is the count before
the tick. -/
theorem moves_ticksLeft {lv : Level} {u t : State} {c : Nat} (h : Moves lv u t) (hi : u.Inv)
    (hx : u.phase.isRx = true) (hc : u.tcnt = c + 1) (hb : c < u.timerLimit) :
    t.phase = .idle ∨ t.phase.isRx = true ∧ ticksLeft t < ticksLeft { u with tcnt := c } := by
  unfold State.timerLimit at hb
  cases h with
  | noData | sofTooLong | sofTooShort | endOfData | pulseTooShort | cap | collision | done =>
    exact .inl rfl
  | idleRestart hp | idleOn hp | idleConfirmed hp | txSofOn hp | slotOn hp | eofOn hp =>
    rw [hp] at hx; cases hx
  | slot hp | frameEnd hp => rcases hp with ⟨hp, -⟩ | ⟨hp, -⟩ <;> rw [hp] at hx <;> cases hx
  | waitOn hp =>
    simp only [hp] at hb
    refine .inr ⟨hx, ?_⟩
    rw [ticksLeft_wait hp, ticksLeft_wait (by exact hp), hc]
    dsimp only; omega
  | activity hp =>
    simp only [hp] at hb
    refine .inr ⟨rfl, ?_⟩
    rw [ticksLeft_sof rfl, ticksLeft_wait (by exact hp)]
    dsimp only [timerStart_params, timerStart_tcnt]; omega
  | sofOn hp =>
    simp only [hp] at hb
    refine .inr ⟨hx, ?_⟩
    rw [ticksLeft_sof hp, ticksLeft_sof (by exact hp), hc]
    dsimp only; omega
  | sofOk hp =>
    simp only [hp] at hb
    refine .inr ⟨rfl, ?_⟩
    obtain ⟨hn, hn', -⟩ := hi.rx_start (.inr hp)
    have hslots : u.slotsStarted = 0 := by simp [State.slotsStarted, hn, hn']
    rw [ticksLeft_bit_restarted rfl rfl, ticksLeft_sof (by exact hp)]
    change _ + (95 - u.slotsStarted) * u.params.rxEodMin < _
    rw [hslots]
    dsimp only [timerStart_params]; omega
  | runOn hp =>
    simp only [hp] at hb
    refine .inr ⟨hx, ?_⟩
    rw [ticksLeft_bit hp, ticksLeft_bit (by exact hp), hc]
    change _ < _ + (95 - u.slotsStarted) * u.params.rxEodMin
    dsimp only; omega
  | bit hp _ _ hn =>
    simp only [hp] at hb
    have h95 : u.slotsStarted < 95 := by
      have h11 := hi.rxBit_room hp
      simp only [State.slotsStarted]; bv_omega
    exact .inr ⟨hx, ticksLeft_of_bit hp (by exact hp) rfl rfl hb h95 (slotsStarted_bit hn)⟩
  | byte hp _ _ hn h11 =>
    simp only [hp] at hb
    have h95 : u.slotsStarted < 95 := by
      simp only [State.slotsStarted]; have := u.nbits.isLt; omega
    exact .inr ⟨hx, ticksLeft_of_bit hp (by exact hp) rfl rfl hb h95 (slotsStarted_byte hn h11)⟩

theorem busyTick_timerLimit (s : State) : s.busyTick.timerLimit = s.timerLimit := by
  simp [State.timerLimit]

/-- Every step of a receive ends it or brings its end one tick nearer (R109). -/
theorem step_ticksLeft {s t : State} (hr : s.input.rst = false) (hi : s.Inv)
    (hx : s.phase.isRx = true) (hb : s.TimerBounded) (ht : s.nextTicks = s.tcnt + 1)
    (h : step s = .next t) : t.phase = .idle ∨ t.phase.isRx = true ∧ ticksLeft t < ticksLeft s := by
  have hm := moves_ticksLeft (step_moves hr (ne_idle_of_isRx hx) h) (busyTick_inv hi)
    ((congrArg _ (busyTick_phase s)).trans hx) ht ((busyTick_timerLimit s).symm ▸ hb)
  have hleft : ticksLeft { s.busyTick with tcnt := s.tcnt } = ticksLeft s := by
    simp [ticksLeft, State.slotsStarted]
  rwa [hleft] at hm

/-- A receive ends within the ticks it has left. -/
theorem receive_ends {s : State} {ls : List Level} (h1 : s.params.WF1) (hi : s.Inv)
    (hb : s.TimerBounded) (hx : s.phase.isRx = true) (hs : Samples s ls)
    (hlen : ticksLeft s < ls.length) :
    ∃ k t, k ≤ ls.length ∧ Host.Core.run core k s = .next t ∧ (t : State).phase = .idle := by
  induction ls generalizing s with
  | nil => exact absurd hlen (Nat.not_lt_zero _)
  | cons l ls ih =>
    obtain ⟨hr, -, hnext⟩ := samples_cons hs
    obtain ⟨t, ht⟩ := stepNeverStops s hi
    have hp := ne_idle_of_isRx hx
    obtain ⟨hb', hticks⟩ := timerNeverWraps s t h1 hi hb ht
    rcases step_ticksLeft hr hi hx hb (hticks hp) ht with hidle | ⟨hx', hless⟩
    · exact ⟨1, t, Nat.succ_pos _, by rw [run_succ ht]; rfl, hidle⟩
    · obtain ⟨k, u, hk, hrun, hu⟩ := ih (parametersNeverChange s t ht ▸ h1)
        (stepKeepsInvariant s t hi ht) hb' hx' (hnext t (step_inputs hr hp ht))
        (by rw [List.length_cons] at hlen; omega)
      exact ⟨k + 1, u, Nat.succ_le_succ hk, by rw [run_succ ht, hrun], hu⟩

/-- Settles O57: the ticks a receive has left are below the bound. -/
theorem receiveAlwaysCompletes : Obligations.ReceiveAlwaysCompletes := by
  intro s ts h1 hi hb hx hc hlen
  obtain ⟨k, t, hk, hrun, ht⟩ := receive_ends h1 hi hb hx ⟨ts, hc, rfl⟩
    (by rw [List.length_map, hlen]; exact ticksLeft_lt h1)
  exact ⟨k, t, by rwa [List.length_map] at hk, hrun, ht⟩

/-! ### A bus that is never idle -/

theorem fits_rxIfsMin {P : Params} (h : P.WF1) : P.fits P.rxIfsMin := by
  obtain ⟨-, -, -, -, -, -, -, hfits, -⟩ := h
  exact hfits

/-- R133: the idle wait goes on as long as an active sample always comes before its count is full. -/
theorem idleWait_holds {s : State} {ls : List Level} (h1 : s.params.WF1) (hp : s.phase = .txIdle)
    (hb : s.tcnt < s.params.rxIfsMin) (hs : Samples s ls)
    (hn : Claims.neverIdle s.params.rxIfsMin s.tcnt ls = true) :
    ∃ t : State, Host.Core.run core ls.length s = .next t ∧ t.phase = .txIdle ∧ t.drv = s.drv := by
  induction ls generalizing s with
  | nil => exact ⟨s, rfl, hp, rfl⟩
  | cons l ls ih =>
    obtain ⟨hr, hl, hnext⟩ := samples_cons hs
    obtain ⟨hactive, -, hwaiting⟩ := idleWaitStep s hr hp
    cases l with
    | active =>
      have hstep := hactive hl
      obtain ⟨t, hrun, ht⟩ := ih (s := { s.busyTick with tcnt := 0, trun := true })
        (by simpa using h1) (by simpa using hp)
        (by simpa using Nat.lt_of_succ_le (fits_rxIfsMin h1).1) (hnext _ (by simp)) (by simpa [Claims.neverIdle] using hn)
      exact ⟨t, by rw [List.length_cons, run_succ hstep, hrun], by simpa using ht⟩
    | passive =>
      simp only [Claims.neverIdle, Bool.and_eq_true, decide_eq_true_eq] at hn
      obtain ⟨hless, hn⟩ := hn
      have hticks := later_nextTicks (later_zero s) (fits_rxIfsMin h1) hb
      have hstep := hwaiting hl (hticks.trans_lt hless)
      obtain ⟨t, hrun, ht⟩ := ih (s := s.busyTick) (by simpa using h1) (by simpa using hp)
        (by simpa [hticks] using hless) (hnext _ (by simp)) (by simpa [hticks] using hn)
      exact ⟨t, by rw [List.length_cons, run_succ hstep, hrun], by simpa using ht⟩

/-- Settles O58: the wait holds for the samples of the list. -/
theorem busyBusHoldsTransmitter : Obligations.BusyBusHoldsTransmitter := by
  intro s ts h1 hp hb hc hn
  have h := idleWait_holds h1 hp hb ⟨ts, hc, rfl⟩ hn
  rwa [List.length_map] at h

end Sys2Proof.Proofs
end

section
/-! SUPPORT. A transmit from its SOF to its last tick (spec: `42_transmitter.md` R122 to R131): the run is
followed phase by phase, each phase counting to its limit, and slot by slot. -/

namespace Sys2Proof.Proofs

open Sys2Proof.Machine

/-- A run through the phases of an `XMIT`, with the levels it drives. -/
inductive Sends : State → List Level → State → Prop
  | nil (s : State) : Sends s [] s
  | cons {s u t : State} {ls : List Level} (hx : s.phase.isTx = true) (hs : step s = .next u)
      (h : Sends u ls t) : Sends s (s.drv :: ls) t

theorem sends_append {s u t : State} {as bs : List Level} (h : Sends s as u) (h' : Sends u bs t) :
    Sends s (as ++ bs) t := by
  induction h with
  | nil => exact h'
  | cons hx hs _ ih => exact .cons hx hs (ih h')

theorem sends_run {s t : State} {ls : List Level} (h : Sends s ls t) :
    Host.Core.run core ls.length s = .next t := by
  induction h with
  | nil => rfl
  | cons _ hs _ ih => rw [List.length_cons, run_succ hs, ih]

theorem sends_drvTrace {s t : State} {ls : List Level} (h : Sends s ls t) :
    drvTrace ls.length s = ls := by
  induction h with
  | nil => rfl
  | cons _ hs _ ih => simp only [List.length_cons, drvTrace, hs, ih, State.drvOut]

/-- Before its last tick the transmit is in progress. -/
theorem sends_inProgress {s t : State} {ls : List Level} (h : Sends s ls t) {k : Nat}
    (hk : k < ls.length) : ∃ u, Host.Core.run core k s = .next u ∧ (u : State).phase.isTx = true := by
  induction h generalizing k with
  | nil => exact absurd hk (Nat.not_lt_zero k)
  | cons hx hs _ ih =>
    cases k with
    | zero => exact ⟨_, rfl, hx⟩
    | succ k =>
      obtain ⟨u, hrun, hu⟩ := ih (Nat.lt_of_succ_lt_succ hk)
      exact ⟨u, by rw [run_succ hs, hrun], hu⟩

/-- In the coming `n` ticks of a transmit there is no reset, and the tick is as `G` says. -/
def Throughout (G : State → Prop) (n : Nat) (s : State) : Prop :=
  ∀ ls u, Sends s ls u → ls.length < n → u.phase.isTx = true → u.input.rst = false ∧ G u

theorem throughout_after {G : State → Prop} {m n : Nat} {s u : State} {ls : List Level}
    (h : Throughout G n s) (hs : Sends s ls u) (hm : ls.length + m ≤ n) : Throughout G m u :=
  fun _ v hv hlt => h _ v (sends_append hs hv) (by rw [List.length_append]; omega)

theorem throughout_imp {G G' : State → Prop} {n : Nat} {s : State} (h : Throughout G n s)
    (hG : ∀ u, G u → G' u) : Throughout G' n s :=
  fun ls u hu hlt hx => (h ls u hu hlt hx).imp id (hG u)

theorem later_drv {m : Nat} {s u : State} (h : Later m s u) : u.drv = s.drv := by
  obtain ⟨_, _, _, _, rfl⟩ := h; rfl

/-- A transmit phase that counts below the limit `x` and applies `rule` when the count reaches it. -/
def CountsTo (G : State → Prop) (x : Nat) (rule : State → Outcome) (s : State) : Prop :=
  ∀ k u, Later k s u → u.input.rst = false → G u →
    step u = if x ≤ u.nextTicks then rule u.busyTick else .next u.busyTick

/-- Below its limit a transmit phase drives its level and counts. -/
theorem sends_counting {G : State → Prop} {s : State} {x k n : Nat} {rule : State → Outcome}
    (hfits : s.params.fits x) (hx : s.phase.isTx = true) (hstep : CountsTo G x rule s)
    (hG : Throughout G n s) (hk : s.tcnt + k < x) (hn : k ≤ n) :
    ∃ u, Sends s (List.replicate k s.drv) u ∧ Later k s u := by
  induction k with
  | zero => exact ⟨s, .nil s, later_zero s⟩
  | succ k ih =>
    obtain ⟨u, hsend, hu⟩ := ih (by omega) (by omega)
    have hxu : u.phase.isTx = true := (congrArg _ (later_phase hu)).trans hx
    have hticks := later_nextTicks hu hfits (by omega)
    obtain ⟨hr, hg⟩ := hG _ u hsend (by rw [List.length_replicate]; omega) hxu
    have hs := (hstep k u hu hr hg).trans (if_neg (by omega))
    refine ⟨u.busyTick, ?_, later_trans hu (later_busyTick (by rw [hticks, later_tcnt hu]))⟩
    rw [List.replicate_succ', ← later_drv hu]
    exact sends_append (later_drv hu ▸ hsend) (.cons hxu hs (.nil _))

/-- A transmit phase drives its level for the ticks to its limit and ends in its rule. -/
theorem sends_phase {G : State → Prop} {s : State} {x m n : Nat} {rule : State → Outcome}
    (hfits : s.params.fits x) (hx : s.phase.isTx = true) (hstep : CountsTo G x rule s)
    (hG : Throughout G n s) (hm : s.tcnt + m = x) (hpos : s.tcnt < x) (hn : m ≤ n) :
    ∃ b, Later m s b ∧ ∀ t, rule b = .next t → Sends s (List.replicate m s.drv) t := by
  obtain ⟨k, rfl⟩ : ∃ k, m = k + 1 := ⟨m - 1, by omega⟩
  obtain ⟨u, hsend, hu⟩ := sends_counting hfits hx hstep hG (k := k) (by omega) (by omega)
  have hxu : u.phase.isTx = true := (congrArg _ (later_phase hu)).trans hx
  have hticks := later_nextTicks hu hfits (by omega)
  obtain ⟨hr, hg⟩ := hG _ u hsend (by rw [List.length_replicate]; omega) hxu
  have hs := (hstep k u hu hr hg).trans (if_pos (by omega))
  refine ⟨u.busyTick, later_trans hu (later_busyTick (by rw [hticks, later_tcnt hu])), fun t ht => ?_⟩
  rw [List.replicate_succ', ← later_drv hu]
  exact sends_append (later_drv hu ▸ hsend) (.cons hxu (hs.trans ht) (.nil _))

/-! ### The phases -/

/-- No collision in the coming tick: a released slot samples a passive line (R125). -/
def Unhindered (s : State) : Prop := s.phase = .txBit → s.drv = .active ∨ s.input.sample = .passive

theorem countsTo_txSof {s : State} {x : Nat} (hp : s.phase = .txSof) (hx : s.params.txSof = x) :
    CountsTo Unhindered x nextSlot s := fun _ u hu hr _ => by
  obtain ⟨hsof, -, -⟩ := transmitPhaseSteps u hr
  rw [hsof ((later_phase hu).trans hp), later_params hu, hx]

theorem countsTo_txBit {s : State} {x : Nat} (hp : s.phase = .txBit) (hx : s.dur = x) :
    CountsTo Unhindered x nextSlot s := fun _ u hu hr hg => by
  have hpu := (later_phase hu).trans hp
  obtain ⟨-, hbit, -⟩ := transmitPhaseSteps u hr
  have hdur : u.dur = s.dur := by obtain ⟨_, _, _, _, rfl⟩ := hu; rfl
  rw [(hbit hpu).2 (hg hpu), hdur, hx]

theorem countsTo_txEof {s : State} {x : Nat} (hp : s.phase = .txEof) (hx : s.params.txEof = x) :
    CountsTo Unhindered x (fun b => .next (Claims.completed 0x00 .ok b)) s := fun _ u hu hr _ => by
  obtain ⟨-, -, heof⟩ := transmitPhaseSteps u hr
  rw [heof ((later_phase hu).trans hp), later_params hu, hx]

/-! ### The slots of a frame -/

/-- Slot `j` of a frame with the bytes `B`: its level by R65 and its length by R59. -/
def slotToken (P : Params) (B : Nat → Byte) (j : Nat) : Level × Nat :=
  (slotLevel (7 - j % 8), txdur P (slotLevel (7 - j % 8)) ((B (j / 8)).getLsbD (7 - j % 8)))

/-- `next_slot` is to start slot `j` of a frame of `L` bytes `B` (R124). -/
structure Ready (P : Params) (B : Nat → Byte) (L j : Nat) (s : State) : Prop where
  params : s.params = P
  len : s.len.toNat = L
  room : L ≤ 12
  started : s.slotsStarted = j
  bits : s.nbits ≠ 0 → s.shreg = B (j / 8) <<< s.nbits.toNat
  bytes : ∀ i, i < L → s.fbByte i = B i

/-- Slot `j` has just begun (R124). -/
structure InSlot (P : Params) (B : Nat → Byte) (L j : Nat) (s : State) : Prop where
  ready : Ready P B L (j + 1) s
  phase : s.phase = .txBit
  tcnt : s.tcnt = 0
  drv : s.drv = (slotToken P B j).1
  dur : s.dur = (slotToken P B j).2

theorem ready_later {P : Params} {B : Nat → Byte} {L j m : Nat} {s u : State}
    (h : Ready P B L j s) (hu : Later m s u) : Ready P B L j u := by
  obtain ⟨_, _, _, _, rfl⟩ := hu
  exact ⟨h.params, h.len, h.room, h.started, h.bits, h.bytes⟩

/-- The counters of R101 and R124 from the number of bits they count. -/
theorem counters_of_slotsStarted {s : State} {j : Nat} (h : s.slotsStarted = j) :
    s.nbytes.toNat = j / 8 ∧ s.nbits.toNat = j % 8 := by
  have hlt := s.nbits.isLt
  simp only [State.slotsStarted] at h
  omega

/-- R71: the top bit after `n` shifts. -/
theorem msb_shiftLeft (x : Byte) {n : Nat} (hn : n < 8) : (x <<< n).msb = x.getLsbD (7 - n) := by
  have h7 : ¬ 7 < n := by omega
  rw [BitVec.msb_eq_getLsbD_last, BitVec.getLsbD_shiftLeft]
  simp only [Nat.reduceSub, Nat.reduceLT, h7, decide_true, decide_false, Bool.not_false, Bool.and_true,
    Bool.true_and]

/-- The byte that `next_slot` sends the top bit of (R124). -/
theorem ready_slotBits {P : Params} {B : Nat → Byte} {L j : Nat} {s : State} (h : Ready P B L j s)
    (hj : j < 8 * L) :
    (if s.nbits = 0 then s.fbByte s.nbytes.toNat else s.shreg) = B (j / 8) <<< (j % 8) := by
  obtain ⟨hbytes, hbits⟩ := counters_of_slotsStarted h.started
  split
  next h0 =>
    have h0' : j % 8 = 0 := by rw [← hbits, h0]; rfl
    rw [hbytes, h.bytes _ (by omega), h0']
    simp
  next h0 => rw [h.bits h0, hbits]

/-- R124: before the end of the frame `next_slot` starts the slot that is due. -/
theorem nextSlot_of_ready {P : Params} {B : Nat → Byte} {L j : Nat} {s : State}
    (h : Ready P B L j s) (hj : j < 8 * L) : ∃ t, nextSlot s = .next t ∧ InSlot P B L j t := by
  obtain ⟨hbytes, hbits⟩ := counters_of_slotsStarted h.started
  have hroom := h.room
  have hlen := h.len
  have hne : s.nbytes.toNat ≠ s.len.toNat := by omega
  have hnext := nextSlot_of_ne hne (fun _ => by omega)
  rw [ready_slotBits h hj] at hnext
  have hpos : slotPosition s = 7 - j % 8 := congrArg (7 - ·) hbits
  have hmsb : (B (j / 8) <<< (j % 8)).msb = (B (j / 8)).getLsbD (7 - j % 8) :=
    msb_shiftLeft _ (Nat.mod_lt _ (by decide))
  refine ⟨_, hnext, ⟨h.params, hlen, hroom, ?started, fun h0 => ?bits, h.bytes⟩, rfl, rfl, ?drv, ?dur⟩
  case started => rw [startSlot_slotsStarted _ (by omega), h.started]
  case bits =>
    have hsucc : (s.nbits + 1).toNat = j % 8 + 1 := by
      have : s.nbits + 1 ≠ 0 := h0
      bv_omega
    change (B (j / 8) <<< (j % 8)) <<< 1 = _
    rw [startSlot_nbits, hsucc, ← BitVec.shiftLeft_add]
    congr 2
    have := (s.nbits + 1).isLt
    omega
  case drv => rw [startSlot_drv, hpos]; rfl
  case dur => rw [startSlot_dur, hpos, hmsb, h.params]; rfl

/-- R124: after the last slot `next_slot` starts the end of frame. -/
theorem nextSlot_of_all_sent {P : Params} {B : Nat → Byte} {L : Nat} {s : State}
    (h : Ready P B L (8 * L) s) :
    nextSlot s = .next { s.drivePassive.timerStart with phase := .txEof } := by
  obtain ⟨hbytes, -⟩ := counters_of_slotsStarted h.started
  exact if_pos (by rw [h.len]; omega)

theorem nextSlot_answers_of_ready {P : Params} {B : Nat → Byte} {L j : Nat} {s : State}
    (h : Ready P B L j s) (hj : j ≤ 8 * L) : ∃ t, nextSlot s = .next t := by
  rcases Nat.lt_or_eq_of_le hj with hlt | rfl
  · exact (nextSlot_of_ready h hlt).imp fun _ => And.left
  · exact ⟨_, nextSlot_of_all_sent h⟩

/-! ### The rest of a frame -/

/-- What is still to be sent when slot `j` is due and `m` slots are left (R131). -/
def restWave (P : Params) (B : Nat → Byte) (j m : Nat) : Waveform :=
  (List.range' j m).map (slotToken P B) ++ [(.passive, P.txEof)]

theorem restWave_zero (P : Params) (B : Nat → Byte) (j : Nat) :
    (restWave P B j 0).samples = List.replicate P.txEof .passive := List.append_nil _

theorem restWave_succ (P : Params) (B : Nat → Byte) (j m : Nat) :
    (restWave P B j (m + 1)).samples =
      List.replicate (slotToken P B j).2 (slotToken P B j).1 ++ (restWave P B (j + 1) m).samples := rfl

/-- The transmit has completed with `Ok` (R126). -/
def EndedOk (t : State) : Prop :=
  t.phase = .idle ∧ t.result = 0x00 ∧ t.resultTag = some .ok ∧ t.drv = .passive

theorem fits_txSof {P : Params} (h : P.WF1) : P.fits P.txSof := by
  obtain ⟨-, -, -, -, -, -, -, -, hfits, -⟩ := h
  exact hfits

theorem fits_txEof {P : Params} (h : P.WF1) : P.fits P.txEof := by
  obtain ⟨-, -, -, -, -, -, -, -, -, -, -, hfits, -⟩ := h
  exact hfits

theorem fits_txdur {P : Params} (h : P.WF1) (lv : Level) (b : Bool) : P.fits (txdur P lv b) := by
  obtain ⟨-, -, -, -, -, -, -, -, -, hshort, hlong, -⟩ := h
  rcases txdur_cases P lv b with hd | hd <;> rw [hd] <;> assumption

/-- R124 to R126: an unhindered transmit sends the slots that are left and the end of frame. -/
theorem sends_rest {P : Params} {B : Nat → Byte} {L j m n : Nat} {b t : State} (h1 : P.WF1)
    (hb : Ready P B L j b) (hm : j + m = 8 * L) (ht : nextSlot b = .next t)
    (hn : (restWave P B j m).samples.length ≤ n) (hG : Throughout Unhindered n t) :
    ∃ z, Sends t (restWave P B j m).samples z ∧ EndedOk z := by
  induction m generalizing j b t n with
  | zero =>
    obtain rfl : j = 8 * L := hm
    rw [nextSlot_of_all_sent hb] at ht
    cases ht
    rw [restWave_zero, List.length_replicate] at hn
    obtain ⟨b', -, hsend⟩ := sends_phase (x := P.txEof)
      (s := { b.drivePassive.timerStart with phase := .txEof }) (m := P.txEof)
      (hb.params.symm ▸ fits_txEof h1) rfl (countsTo_txEof rfl (congrArg Params.txEof hb.params)) hG (Nat.zero_add _)
      (fits_txEof h1).1 hn
    exact ⟨_, restWave_zero P B _ ▸ hsend _ rfl, rfl, rfl, rfl, rfl⟩
  | succ m ih =>
    obtain ⟨t', ht', hslot⟩ := nextSlot_of_ready hb (by omega)
    obtain rfl : t' = t := by rw [ht'] at ht; cases ht; rfl
    have hfits : P.fits (slotToken P B j).2 := fits_txdur h1 _ _
    have hpos : t'.tcnt < (slotToken P B j).2 := by rw [hslot.tcnt]; exact hfits.1
    rw [restWave_succ, List.length_append, List.length_replicate] at hn
    obtain ⟨b', hlater, hsend⟩ := sends_phase (x := (slotToken P B j).2) (m := (slotToken P B j).2)
      (hslot.ready.params.symm ▸ hfits) (by rw [hslot.phase]; rfl)
      (countsTo_txBit hslot.phase hslot.dur) hG (by rw [hslot.tcnt, Nat.zero_add]) hpos (by omega)
    have hb' := ready_later hslot.ready hlater
    obtain ⟨u, hu⟩ := nextSlot_answers_of_ready hb' (by omega)
    have hslots := hsend u hu
    obtain ⟨z, hrest, hz⟩ := ih (n := (restWave P B (j + 1) m).samples.length) hb' (by omega) hu le_rfl
      (throughout_after hG hslots (by rw [List.length_replicate]; exact hn))
    exact ⟨z, restWave_succ P B j m ▸ hslot.drv ▸ sends_append hslots hrest, hz⟩

/-- R123 to R131: an unhindered transmit from the first tick of its SOF. -/
theorem sends_from_sof {P : Params} {B : Nat → Byte} {L n : Nat} {s : State} (h1 : P.WF1)
    (hp : s.phase = .txSof) (h0 : s.tcnt = 0) (hd : s.drv = .active) (hs : Ready P B L 0 s)
    (hn : P.txSof + (restWave P B 0 (8 * L)).samples.length ≤ n) (hG : Throughout Unhindered n s) :
    ∃ z, Sends s (List.replicate P.txSof .active ++ (restWave P B 0 (8 * L)).samples) z ∧
      EndedOk z := by
  obtain ⟨b, hlater, hsend⟩ := sends_phase (x := P.txSof) (m := P.txSof)
    (hs.params.symm ▸ fits_txSof h1) (by rw [hp]; rfl) (countsTo_txSof hp (congrArg Params.txSof hs.params)) hG
    (by rw [h0, Nat.zero_add]) (by rw [h0]; exact (fits_txSof h1).1) (by omega)
  have hb := ready_later hs hlater
  obtain ⟨t, ht⟩ := nextSlot_answers_of_ready hb (Nat.zero_le _)
  have hsof := hsend t ht
  rw [hd] at hsof
  obtain ⟨z, hrest, hz⟩ := sends_rest h1 hb (Nat.zero_add _) ht le_rfl
    (throughout_after hG hsof (by rw [List.length_replicate]; exact hn))
  exact ⟨z, sends_append hsof hrest, hz⟩

/-- No slot has been started before the SOF has ended (R121). -/
theorem ready_of_inv {s : State} (h : s.Inv) (hp : s.phase = .txIdle ∨ s.phase = .txSof) :
    Ready s.params s.fbByte s.len.toNat 0 s := by
  obtain ⟨hbytes, hbits⟩ := h.tx_start hp
  refine ⟨rfl, rfl, h.tx_len ?_, ?_, fun h0 => absurd hbits h0, fun _ _ => rfl⟩
  · rcases hp with hp | hp <;> rw [hp] <;> rfl
  · simp [State.slotsStarted, hbytes, hbits]

/-! ### The waveform of R131 -/

/-- The eight slots of a byte, most significant bit first. -/
theorem byteWave_eq (P : Params) (B : Nat → Byte) (i : Nat) :
    ([7, 6, 5, 4, 3, 2, 1, 0].map fun p => (slotLevel p, txdur P (slotLevel p) ((B i).getLsbD p))) =
      (List.range' (8 * i) 8).map (slotToken P B) := by
  have hpositions : [7, 6, 5, 4, 3, 2, 1, 0] = (List.range 8).map (7 - ·) := rfl
  rw [hpositions, List.range'_eq_map_range, List.map_map, List.map_map]
  refine List.map_congr_left fun k hk => ?_
  have hk8 := List.mem_range.mp hk
  have hmod : (8 * i + k) % 8 = k := by omega
  have hdiv : (8 * i + k) / 8 = i := by omega
  simp only [Function.comp_apply, slotToken, hmod, hdiv]

/-- The slots of a frame, counted through (R131). -/
theorem frameWave_fbBytes (P : Params) (s : State) (L : Nat) :
    Claims.frameWave P (s.fbBytes L) = (List.range' 0 (8 * L)).map (slotToken P s.fbByte) := by
  induction L with
  | zero => rfl
  | succ L ih =>
    have hbytes : s.fbBytes (L + 1) = s.fbBytes L ++ [s.fbByte L] := by
      simp only [State.fbBytes, List.range_succ, List.map_append, List.map_cons, List.map_nil]
    have hrange : List.range' 0 (8 * (L + 1)) = List.range' 0 (8 * L) ++ List.range' (8 * L) 8 := by
      rw [Nat.mul_succ, ← List.range'_append_1, Nat.zero_add]
    rw [hbytes, hrange, List.map_append, ← ih, ← byteWave_eq, Claims.frameWave, List.flatMap_append]
    rfl

theorem xmitWave_samples (P : Params) (s : State) (c L : Nat) :
    (Claims.xmitWave P c (s.fbBytes L)).samples =
      List.replicate (P.rxIfsMin - c) .passive ++
        (List.replicate P.txSof .active ++ (restWave P s.fbByte 0 (8 * L)).samples) := by
  rw [restWave, ← frameWave_fbBytes]
  rfl

/-! ### A quiet bus -/

/-- No other node drives in the coming tick and the sample is the level of the wire (R90). -/
def Quiet (s : State) : Prop := s.input.others = .passive ∧ s.input.sample = s.busLevel

theorem sample_of_quiet {s : State} (h : Quiet s) (hd : s.drv = .passive) :
    s.input.sample = .passive := by
  rw [h.2, State.busLevel, State.drvOut, hd, h.1]; rfl

theorem unhindered_of_quiet {s : State} (h : Quiet s) : Unhindered s := fun _ => by
  cases hd : s.drv with
  | active => exact .inl rfl
  | passive => exact .inr (sample_of_quiet h hd)

theorem throughout_of_quietBus {n : Nat} {s : State} (h : Claims.quietBus n s = true) :
    Throughout Quiet n s := by
  intro ls u hs hlt hx
  induction hs generalizing n with
  | nil s =>
    obtain ⟨m, rfl⟩ : ∃ m, n = m + 1 := ⟨n - 1, by rw [List.length_nil] at hlt; omega⟩
    simp only [Claims.quietBus, Bool.and_eq_true, Bool.not_eq_true', beq_iff_eq] at h
    obtain ⟨⟨⟨hrst, hother⟩, hsample⟩, -⟩ := h
    exact ⟨hrst, hother, hsample⟩
  | cons _ hstep _ ih =>
    rw [List.length_cons] at hlt
    obtain ⟨m, rfl⟩ : ∃ m, n = m + 1 := ⟨n - 1, by omega⟩
    simp only [Claims.quietBus, hstep, Bool.and_eq_true] at h
    exact ih h.2 (by omega) hx

/-- R122: on a quiet bus the idle wait counts to the start of the SOF. -/
theorem countsTo_txIdle {s : State} (hp : s.phase = .txIdle) (hd : s.drv = .passive) :
    CountsTo Quiet s.params.rxIfsMin
      (fun b => .next { b with drv := .active, tcnt := 0, trun := true, phase := .txSof }) s :=
  fun _ u hu hr hg => by
    obtain ⟨-, hconfirmed, hwaiting⟩ := idleWaitStep u hr ((later_phase hu).trans hp)
    have hl := sample_of_quiet hg ((later_drv hu).trans hd)
    rw [← later_params hu]
    split
    next h => exact hconfirmed hl h
    next h => exact hwaiting hl (Nat.not_le.mp h)

/-- Settles O59: the idle wait, the SOF, the slots and the end of frame follow each other. -/
theorem transmitSendsWaveform : Obligations.TransmitSendsWaveform := by
  intro s n h1 hi hp hb hn hquiet
  have hG := throughout_of_quietBus hquiet
  rw [xmitWave_samples] at hn ⊢
  obtain ⟨b, hlater, hsend⟩ := sends_phase (fits_rxIfsMin h1) (by rw [hp]; rfl)
    (countsTo_txIdle hp (hi.txEnds_passive (.inl hp))) hG (Nat.add_sub_cancel' hb.le) hb
    (by rw [hn, List.length_append, List.length_replicate]; omega)
  have hidle := hsend _ rfl
  have hready : Ready s.params s.fbByte s.len.toNat 0
      { b with drv := .active, tcnt := 0, trun := true, phase := .txSof } := by
    obtain ⟨hw, hl, hroom, hstarted, hbits, hbytes⟩ := ready_later (ready_of_inv hi (.inl hp)) hlater
    exact ⟨hw, hl, hroom, hstarted, hbits, hbytes⟩
  obtain ⟨z, hsof, hz⟩ := sends_from_sof h1 rfl rfl rfl hready le_rfl
    (throughout_imp (throughout_after hG hidle (by simp [hn])) fun _ => unhindered_of_quiet)
  rw [hi.txEnds_passive (.inl hp)] at hidle
  have hall := sends_append hidle hsof
  obtain ⟨hphase, hres, htag, hdrv⟩ := hz
  subst hn
  exact ⟨sends_drvTrace hall, fun k hk => sends_inProgress hall hk, z, sends_run hall, hphase, hres,
    htag, hdrv⟩

end Sys2Proof.Proofs
end

section
/-! SUPPORT. What one block sends, another receives (spec: `42_transmitter.md` R136): the levels of a
transmit that completes with `Ok`, and the receiver that samples them, slot by slot. -/

namespace Sys2Proof.Proofs

open Sys2Proof.Machine

/-! ### The transmitter -/

/-- A run that goes on to an `Ok` is in progress or has just got there. -/
theorem isTx_or_ok_of_sendsUntil {n : Nat} {s : State} (h : Claims.sendsUntil n s) :
    s.phase.isTx = true ∨ s.phase = .idle ∧ s.resultTag = some .ok := by
  obtain ⟨hrun, t, ht, hidle, htag⟩ := h
  cases n with
  | zero => cases ht; exact .inr ⟨hidle, htag⟩
  | succ n =>
    obtain ⟨u, hu, hx⟩ := hrun 0 (Nat.succ_pos n)
    cases hu
    exact .inl hx

/-- A transmit that goes on to an `Ok` makes a step towards it. -/
theorem sendsUntil_step {n : Nat} {s : State} (h : Claims.sendsUntil n s) (hx : s.phase.isTx = true) :
    ∃ m u, n = m + 1 ∧ step s = .next u ∧ Claims.sendsUntil m u := by
  obtain ⟨hrun, t, ht, hend⟩ := h
  cases n with
  | zero => cases ht; rw [hend.1] at hx; cases hx
  | succ m =>
    obtain ⟨u, hu, hut⟩ := run_succ_next ht
    refine ⟨m, u, rfl, hu, fun k hk => ?_, t, hut, hend⟩
    obtain ⟨v, hv, hxv⟩ := hrun (k + 1) (Nat.succ_lt_succ hk)
    exact ⟨v, run_succ hu ▸ hv, hxv⟩

theorem sendsUntil_after {n : Nat} {s u : State} {ls : List Level} (h : Claims.sendsUntil n s)
    (hs : Sends s ls u) : ∃ m, n = ls.length + m ∧ Claims.sendsUntil m u := by
  induction hs generalizing n with
  | nil => exact ⟨n, (Nat.zero_add n).symm, h⟩
  | cons hx hstep _ ih =>
    obtain ⟨m, v, rfl, hv, hm⟩ := sendsUntil_step h hx
    obtain rfl := Host.Outcome.next.inj (hstep.symm.trans hv)
    obtain ⟨k, rfl, hk⟩ := ih hm
    exact ⟨k, by rw [List.length_cons]; omega, hk⟩

/-- A transmit that goes on to an `Ok` meets neither a reset nor a collision. -/
theorem throughout_of_sendsUntil {n : Nat} {s : State} (h : Claims.sendsUntil n s) (m : Nat) :
    Throughout Unhindered m s := by
  intro ls u hs _ hx
  obtain ⟨k, -, hk⟩ := sendsUntil_after h hs
  obtain ⟨_, v, -, hv, hend⟩ := sendsUntil_step hk hx
  have hv' := isTx_or_ok_of_sendsUntil hend
  have hr : u.input.rst = false := by
    by_contra hr
    rw [step_of_reset (Bool.eq_true_of_not_eq_false hr)] at hv
    cases hv
    rcases hv' with hx' | ⟨-, htag⟩
    · cases hx'
    · cases htag
  refine ⟨hr, fun hp => ?_⟩
  by_contra hc
  obtain ⟨hd, hl⟩ := not_or.mp hc
  have hd := level_passive_of_ne hd
  have hl : u.input.sample = .active := by
    cases hsample : u.input.sample with
    | active => rfl
    | passive => exact absurd hsample hl
  obtain ⟨-, hbit, -⟩ := transmitPhaseSteps u hr
  rw [(hbit hp).1 hd hl] at hv
  cases hv
  rcases hv' with hx' | ⟨-, htag⟩
  · cases hx'
  · cases htag

/-- The step of `TX_IDLE` waits on or starts the SOF (R122). -/
theorem step_txIdle_phase {s t : State} (hr : s.input.rst = false) (hp : s.phase = .txIdle)
    (h : step s = .next t) : t.phase = .txIdle ∨ t.phase = .txSof ∧ t.tcnt = 0 := by
  have hp' := (busyTick_phase s).trans hp
  obtain ⟨hactive, hconfirmed, hwaiting⟩ := idleWaitStep s hr hp
  cases hl : s.input.sample with
  | active => rw [hactive hl] at h; cases h; exact .inl hp'
  | passive =>
    rcases Nat.lt_or_ge s.nextTicks s.params.rxIfsMin with ht | ht
    · rw [hwaiting hl ht] at h; cases h; exact .inl hp'
    · rw [hconfirmed hl ht] at h; cases h; exact .inr ⟨rfl, rfl⟩

/-- The frame a transmit was given: what stays the same while it runs (R120). -/
def SameFrame (s t : State) : Prop :=
  t.params = s.params ∧ t.len = s.len ∧ ∀ j, t.fbByte j = s.fbByte j

theorem sameFrame_step {s t : State} (hr : s.input.rst = false) (hx : s.phase.isTx = true)
    (h : step s = .next t) : SameFrame s t := by
  obtain ⟨hlen, -, -, -, hfb, -⟩ := transmitLeavesTheRest s t hr hx h
  exact ⟨parametersNeverChange s t h, hlen, hfb⟩

/-- R122, R133: a transmit that gets its `Ok` has waited, driving passive, and then started its SOF. -/
theorem sends_idle_wait {n : Nat} {s : State} (hi : s.Inv) (hp : s.phase = .txIdle)
    (h : Claims.sendsUntil n s) :
    ∃ p u, Sends s (List.replicate p .passive) u ∧ u.phase = .txSof ∧ u.tcnt = 0 ∧ u.Inv ∧
      SameFrame s u := by
  induction n generalizing s with
  | zero =>
    obtain ⟨-, t, ht, hidle, -⟩ := h
    cases ht
    rw [hidle] at hp; cases hp
  | succ n ih =>
    have hx : s.phase.isTx = true := by rw [hp]; rfl
    obtain ⟨m, t, hm, ht, hend⟩ := sendsUntil_step h hx
    obtain rfl := Nat.succ.inj hm
    obtain ⟨hr, -⟩ := throughout_of_sendsUntil h 1 [] s (.nil s) Nat.one_pos hx
    have hd := hi.txEnds_passive (.inl hp)
    have hit := stepKeepsInvariant s t hi ht
    obtain ⟨hw, hl, hfb⟩ := sameFrame_step hr hx ht
    rcases step_txIdle_phase hr hp ht with hpt | ⟨hpt, h0⟩
    · obtain ⟨p, u, hsend, hpu, h0, hiu, hw', hl', hfb'⟩ := ih hit hpt hend
      have hall := Sends.cons hx ht hsend
      rw [hd] at hall
      exact ⟨p + 1, u, hall, hpu, h0, hiu, hw'.trans hw, hl'.trans hl,
        fun j => (hfb' j).trans (hfb j)⟩
    · have hall := Sends.cons hx ht (.nil t)
      rw [hd] at hall
      exact ⟨1, t, hall, hpt, h0, hit, hw, hl, hfb⟩

/-- R131, R136: the levels of a transmit that completes with `Ok`, whatever the other nodes do. -/
theorem drvTrace_of_sendsUntil {n : Nat} {s : State} (h1 : s.params.WF1) (hi : s.Inv)
    (hp : s.phase = .txIdle ∨ s.phase = .txSof ∧ s.tcnt = 0) (h : Claims.sendsUntil n s) :
    ∃ p, drvTrace n s = List.replicate p .passive ++ (List.replicate s.params.txSof .active ++
      (restWave s.params s.fbByte 0 (8 * s.len.toNat)).samples) := by
  obtain ⟨p, u, hidle, hpu, h0, hiu, hw, hl, hfb⟩ : ∃ p u, Sends s (List.replicate p .passive) u ∧
      u.phase = .txSof ∧ u.tcnt = 0 ∧ u.Inv ∧ SameFrame s u := by
    rcases hp with hp | ⟨hp, h0⟩
    · exact sends_idle_wait hi hp h
    · exact ⟨0, s, .nil s, hp, h0, hi, rfl, rfl, fun _ => rfl⟩
  obtain ⟨m, rfl, hm⟩ := sendsUntil_after h hidle
  have hready := ready_of_inv hiu (.inr hpu)
  rw [hw, hl, funext hfb] at hready
  obtain ⟨z, hsend, hz, -⟩ := sends_from_sof h1 hpu h0 (hiu.txSof_active hpu) hready le_rfl
    (throughout_of_sendsUntil hm _)
  have hall := sends_append hidle hsend
  obtain ⟨k, hk, hend⟩ := sendsUntil_after h hall
  have hk0 : k = 0 := by
    by_contra hne
    obtain ⟨v, hv, hx⟩ := hend.1 0 (Nat.pos_of_ne_zero hne)
    cases hv
    rw [hz] at hx; cases hx
  refine ⟨p, ?_⟩
  rw [hk, hk0, Nat.add_zero]
  exact sends_drvTrace hall

/-! ### The receiver -/

/-- WF1 to WF7, as far as the two ends of one frame need them. -/
structure Compatible (P : Params) : Prop where
  wf1 : P.WF1
  wf2 : P.WF2
  wf3 : P.WF3
  wf4 : P.WF4
  wf5 : P.WF5
  wf6 : P.WF6
  wf7 : P.WF7

/-- R9: a sent slot is long enough for a pulse, is no end of data, and carries its bit. -/
theorem txdur_received {P : Params} (h : Compatible P) (lv : Level) (b : Bool) :
    1 ≤ txdur P lv b ∧ P.rxShortMin ≤ txdur P lv b ∧ txdur P lv b ≤ P.rxEodMin ∧
      bitval P lv (txdur P lv b) = b := by
  have h2 := h.wf2
  have h4 := h.wf4
  have h3 := h.wf3
  have h5 := h.wf5
  refine ⟨(fits_txdur h.wf1 lv b).1, ?_, ?_, bitvalInvertsTxdur P h2 h3 h4 lv b⟩ <;>
    rcases txdur_cases P lv b with hd | hd <;> rw [hd] <;> omega

/-- R65: the levels of a frame alternate, byte boundaries included. -/
theorem slotLevel_alternates (j : Nat) : slotLevel (7 - (j + 1) % 8) = (slotLevel (7 - j % 8)).not := by
  have hparity : (7 - (j + 1) % 8) % 2 = 1 ↔ ¬ (7 - j % 8) % 2 = 1 := by omega
  by_cases h : (7 - j % 8) % 2 = 1 <;> simp [slotLevel, hparity, h, Level.not]

/-- Slot `j` as the receiver needs it (R9). -/
theorem slotToken_received {P : Params} (h : Compatible P) (B : Nat → Byte) (j : Nat) :
    1 ≤ (slotToken P B j).2 ∧ P.rxShortMin ≤ (slotToken P B j).2 ∧
      (slotToken P B j).2 ≤ P.rxEodMin ∧
      bitval P (slotToken P B j).1 (slotToken P B j).2 = (B (j / 8)).getLsbD (7 - j % 8) :=
  txdur_received h _ _

/-- R71: where the bits of a register are after a bit has been shifted in. -/
theorem getLsbD_shiftIn_zero (v : Byte) (b : Bool) : (shiftIn v b).getLsbD 0 = b := by
  cases b <;> simp [shiftIn]

theorem getLsbD_shiftIn_succ (v : Byte) (b : Bool) {k : Nat} (hk : k + 1 < 8) :
    (shiftIn v b).getLsbD (k + 1) = v.getLsbD k := by
  rw [BitVec.getLsbD_eq_getElem hk, BitVec.getLsbD_eq_getElem (Nat.lt_of_succ_lt hk)]
  cases b <;> simp [shiftIn]

/-- The last `n` bits shifted in are the first `n` bits of a byte (R71). -/
def TakenBits (n : Nat) (v x : Byte) : Prop := ∀ k, k < n → v.getLsbD k = x.getLsbD (8 - n + k)

theorem takenBits_shiftIn {n : Nat} {v x : Byte} (h : TakenBits n v x) (hn : n < 8) :
    TakenBits (n + 1) (shiftIn v (x.getLsbD (7 - n))) x := by
  intro k hk
  cases k with
  | zero => rw [getLsbD_shiftIn_zero]; congr 1; omega
  | succ k =>
    rw [getLsbD_shiftIn_succ _ _ (by omega), h k (Nat.lt_of_succ_lt_succ hk)]
    congr 1; omega

theorem takenBits_eight {v x : Byte} (h : TakenBits 8 v x) : v = x :=
  BitVec.eq_of_getLsbD_eq fun k hk => by simpa using h k hk

/-- The receiver measures slot `j` of a frame with the bytes `B` (R101): the bits before it have been
taken, the whole bytes stored. -/
structure InPulse (P : Params) (B : Nat → Byte) (j : Nat) (s : State) : Prop where
  params : s.params = P
  phase : s.phase = .rxBit
  ref : s.ref = (slotToken P B j).1
  started : s.slotsStarted = j
  taken : TakenBits s.nbits.toNat s.shreg (B (j / 8))
  bytes : ∀ i, i < s.nbytes.toNat → s.fbByte i = B i

theorem inPulse_later {P : Params} {B : Nat → Byte} {j m : Nat} {s u : State} (h : InPulse P B j s)
    (hu : Later m s u) : InPulse P B j u := by
  obtain ⟨_, _, _, _, rfl⟩ := hu
  exact ⟨h.params, h.phase, h.ref, h.started, h.taken, h.bytes⟩

/-- A frame of `L` bytes `B` has been received (R99, R103). -/
def Received (B : Nat → Byte) (L : Nat) (t : State) : Prop :=
  t.phase = .idle ∧ t.resultTag = some (.bytes L) ∧ t.result = enc (.bytes L) ∧
    ∀ i, i < L → t.fbByte i = B i

/-- R101: the receiver counts through slot `j` and takes its bit with the next slot's first sample. -/
theorem run_pulse {P : Params} {B : Nat → Byte} {j : Nat} {s : State} {ls : List Level}
    (h : Compatible P) (hs : InPulse P B j s) (h0 : s.tcnt = 0)
    (hl : Samples s (List.replicate ((slotToken P B j).2 - 1) (slotToken P B j).1 ++
      (slotToken P B j).1.not :: ls)) :
    ∃ b, InPulse P B j b ∧ ∀ z,
      takeBit ((B (j / 8)).getLsbD (7 - j % 8)) (slotToken P B j).1.not b = .next z →
      Host.Core.run core (slotToken P B j).2 s = .next z ∧ Samples z ls := by
  obtain ⟨hpos, hmin, hmax, hbit⟩ := slotToken_received h B j
  obtain ⟨d, hd⟩ : ∃ d, (slotToken P B j).2 = d + 1 := ⟨_, (Nat.sub_add_cancel hpos).symm⟩
  rw [hd] at hl hmin hmax hbit ⊢
  rw [Nat.add_sub_cancel] at hl
  have hfits : s.params.fits P.rxEodMin := hs.params.symm ▸ fits_rxEodMin h.wf1
  obtain ⟨u, hrun, hu, hnext⟩ := run_counting hfits (by omega)
    (fun k u hk hu ht hr hlv => by
      have hsu := inPulse_later hs hu
      obtain ⟨-, hon, -⟩ := bitPhaseEndsOrContinues u hr hsu.phase
      exact hon (hlv.trans hsu.ref.symm) (by rw [ht, hsu.params]; omega)) hl
  obtain ⟨hr, hlv, hrest⟩ := samples_cons hnext
  have hsu := inPulse_later hs hu
  have hticks := later_nextTicks hu hfits (by omega)
  have hticks' : u.nextTicks = d + 1 := by rw [hticks, h0, Nat.zero_add]
  have hstep := step_pulse hr hsu.phase
    (by rw [hlv, hsu.ref]; cases (slotToken P B j).1 <;> decide)
    (by rw [hticks', hsu.params]; exact hmin)
  rw [hsu.params, hsu.ref, hticks', hbit, hlv] at hstep
  refine ⟨u.busyTick, inPulse_later hsu (later_busyTick ?_), fun z hz => ?_⟩
  · rw [hticks, later_tcnt hu]
  · have hz' := hstep.trans hz
    exact ⟨(run_add hrun).trans (run_succ hz'),
      hrest z (step_inputs hr (by rw [hsu.phase]; decide) hz')⟩

/-- The bit of slot `j` added to those taken before it (R101). -/
theorem taken_of_pulse {P : Params} {B : Nat → Byte} {j : Nat} {s : State} (hs : InPulse P B j s) :
    TakenBits (j % 8 + 1) (shiftIn s.shreg ((B (j / 8)).getLsbD (7 - j % 8))) (B (j / 8)) := by
  have htaken := hs.taken
  rw [(counters_of_slotsStarted hs.started).2] at htaken
  exact takenBits_shiftIn htaken (Nat.mod_lt _ (by decide))

/-- R102: the eighth bit stores the byte that was sent, and the bytes before it are still there. -/
theorem bytes_of_last_bit {P : Params} {B : Nat → Byte} {j : Nat} {s : State} {b : Bool} {lv : Level}
    (hs : InPulse P B j s) (h7 : j % 8 = 7) (hb : b = (B (j / 8)).getLsbD (7 - j % 8)) {i : Nat}
    (hi : i < s.nbytes.toNat + 1) :
    (byteStored (shiftIn s.shreg b) (bitTaken b lv s)).fbByte i = B i := by
  have htaken := taken_of_pulse hs
  rw [← hb, h7] at htaken
  have hbyte := takenBits_eight htaken
  by_cases hlast : i = s.nbytes.toNat
  · rw [hlast]
    refine (byteStored_fbByte_self _ (bitTaken _ lv s)).trans ?_
    rw [hbyte, (counters_of_slotsStarted hs.started).1]
  · exact (byteStored_fbByte_other _ (bitTaken _ lv s) hlast).trans (hs.bytes i (by omega))

/-- R101, R102: before the twelfth byte is full the receiver goes on to the next slot. -/
theorem takeBit_next_pulse {P : Params} {B : Nat → Byte} {j : Nat} {s : State}
    (hs : InPulse P B j s) (hj : j + 1 < 96) :
    ∃ z, takeBit ((B (j / 8)).getLsbD (7 - j % 8)) (slotToken P B j).1.not s = .next z ∧
      InPulse P B (j + 1) z ∧ z.tcnt = 0 := by
  obtain ⟨hbytes, hbits⟩ := counters_of_slotsStarted hs.started
  have href : (slotToken P B j).1.not = (slotToken P B (j + 1)).1 := (slotLevel_alternates j).symm
  have htaken := taken_of_pulse hs
  generalize hbit : (B (j / 8)).getLsbD (7 - j % 8) = bit at htaken ⊢
  by_cases h7 : s.nbits < 7
  · have hn : (s.nbits + 1).toNat = j % 8 + 1 := by bv_omega
    have hd : (j + 1) / 8 = j / 8 := by bv_omega
    refine ⟨_, takeBit_of_lt _ _ _ h7, ⟨hs.params, hs.phase, href, ?_, ?_, hs.bytes⟩, rfl⟩
    · exact (slotsStarted_bit h7).trans (congrArg (· + 1) hs.started)
    · rw [hd]; exact hn.symm ▸ htaken
  · have h7 := nbits_eq_seven _ h7
    have hmod : j % 8 = 7 := by rw [← hbits, h7]; rfl
    have h11 : s.nbytes.toNat < 11 := by omega
    refine ⟨_, (takeBit_of_seven _ _ _ h7).trans (storeByte_of_lt _ _ h11),
      ⟨hs.params, hs.phase, href, ?_, fun k hk => absurd hk (Nat.not_lt_zero k), fun i hi => ?_⟩, rfl⟩
    · exact (slotsStarted_byte h7 h11).trans (congrArg (· + 1) hs.started)
    · exact bytes_of_last_bit hs hmod hbit.symm
        (hi.trans_eq (byteStored_nbytes (s := bitTaken bit _ s) _ h11.le))

/-- R103: the last bit of the twelfth byte completes the receive. -/
theorem takeBit_last_pulse {P : Params} {B : Nat → Byte} {j : Nat} {s : State}
    (hs : InPulse P B j s) (hj : j + 1 = 96) :
    ∃ z, takeBit ((B (j / 8)).getLsbD (7 - j % 8)) (slotToken P B j).1.not s = .next z ∧
      Received B 12 z := by
  obtain ⟨hbytes, hbits⟩ := counters_of_slotsStarted hs.started
  have hmod : j % 8 = 7 := by omega
  have h7 : s.nbits = 7 := BitVec.eq_of_toNat_eq (hbits.trans hmod)
  have h11 : s.nbytes.toNat = 11 := by omega
  exact ⟨_, (takeBit_of_seven _ _ _ h7).trans (storeByte_of_eq _ _ h11), rfl, rfl, rfl,
    fun i hi => bytes_of_last_bit hs hmod rfl (by omega)⟩

/-! ### The receiver along the frame -/

/-- R99: after the last whole byte the end of frame is seen as the end of data. -/
theorem run_endOfData {P : Params} {B : Nat → Byte} {L m : Nat} {s : State} (h : Compatible P)
    (hs : InPulse P B (8 * L) s) (h0 : s.tcnt = 0) (hl : Samples s (List.replicate m .passive))
    (hm : P.rxEodMin ≤ m) :
    ∃ z, Host.Core.run core P.rxEodMin s = .next z ∧ Received B L z := by
  obtain ⟨d, hd⟩ : ∃ d, P.rxEodMin = d + 1 := ⟨_, (Nat.sub_add_cancel (fits_rxEodMin h.wf1).1).symm⟩
  have hfits : s.params.fits P.rxEodMin := hs.params.symm ▸ fits_rxEodMin h.wf1
  obtain ⟨k, rfl⟩ : ∃ k, m = d + (k + 1) := ⟨m - d - 1, by omega⟩
  rw [List.replicate_add] at hl
  have href : (slotToken P B (8 * L)).1 = .passive := by rw [slotToken, Nat.mul_mod_right]; rfl
  obtain ⟨u, hrun, hu, hnext⟩ := run_counting hfits (by omega)
    (fun k u hk hu ht hr hlv => by
      have hsu := inPulse_later hs hu
      obtain ⟨-, hon, -⟩ := bitPhaseEndsOrContinues u hr hsu.phase
      exact hon (hlv.trans (href.symm.trans hsu.ref.symm)) (by rw [ht, hsu.params]; omega)) hl
  obtain ⟨hr, hlv, -⟩ := samples_cons hnext
  have hsu := inPulse_later hs hu
  obtain ⟨hend, -, -⟩ := bitPhaseEndsOrContinues u hr hsu.phase
  have hstep := hend (hlv.trans (href.symm.trans hsu.ref.symm))
    (by rw [later_nextTicks hu hfits (by omega), hsu.params]; omega)
  have hbytes : u.nbytes.toNat = L := by
    rw [(counters_of_slotsStarted hsu.started).1]; omega
  refine ⟨_, hd ▸ (run_add hrun).trans (run_succ hstep), rfl, congrArg (some ∘ Result.bytes) hbytes,
    ?_, fun i hi => ?_⟩
  · rw [← hbytes]; exact (enc_bytes_eq_setWidth u.nbytes (by decide)).symm
  · exact (busyTick_fbByte u i).trans (hsu.bytes i (by omega))

/-- R136: the receiver from the first sample of slot `j` to its completion, `m` slots being left after
this one. -/
theorem run_slots {P : Params} {B : Nat → Byte} {L j m : Nat} {s : State} (h : Compatible P)
    (hL : L ≤ 12) (hs : InPulse P B j s) (h0 : s.tcnt = 0) (hm : j + 1 + m = 8 * L)
    (hl : Samples s (List.replicate ((slotToken P B j).2 - 1) (slotToken P B j).1 ++
      (restWave P B (j + 1) m).samples)) :
    ∃ k z, k ≤ (slotToken P B j).2 - 1 + (restWave P B (j + 1) m).samples.length ∧
      Host.Core.run core k s = .next z ∧ Received B L z := by
  have href : (slotToken P B j).1.not = (slotToken P B (j + 1)).1 := (slotLevel_alternates j).symm
  have hpos := (slotToken_received h B j).1
  induction m generalizing j s with
  | zero =>
    obtain ⟨d, hd⟩ : ∃ d, P.txEof = d + 1 := ⟨_, (Nat.sub_add_cancel (fits_txEof h.wf1).1).symm⟩
    have hlast : (slotToken P B (j + 1)).1 = .passive := by
      rw [slotToken, show j + 1 = 8 * L by omega, Nat.mul_mod_right]; rfl
    have h7 := h.wf7
    rw [restWave_zero, hd, List.replicate_succ, ← hlast, ← href] at hl
    rw [restWave_zero, List.length_replicate]
    obtain ⟨b, hb, hrun⟩ := run_pulse h hs h0 hl
    rcases Nat.lt_or_eq_of_le hL with hlt | rfl
    · obtain ⟨y, hy, hys, hy0⟩ := takeBit_next_pulse hb (by omega)
      obtain ⟨hrun, hnext⟩ := hrun y hy
      rw [href, hlast] at hnext
      rw [show j + 1 = 8 * L by omega] at hys
      obtain ⟨z, hz, hrec⟩ := run_endOfData h hys hy0 hnext (by omega)
      exact ⟨_, z, by omega, (run_add hrun).trans hz, hrec⟩
    · obtain ⟨z, hz, hrec⟩ := takeBit_last_pulse hb (by omega)
      exact ⟨_, z, by omega, (hrun z hz).1, hrec⟩
  | succ m ih =>
    obtain ⟨d, hd⟩ : ∃ d, (slotToken P B (j + 1)).2 = d + 1 :=
      ⟨_, (Nat.sub_add_cancel (slotToken_received h B (j + 1)).1).symm⟩
    rw [restWave_succ, hd, List.replicate_succ, ← href] at hl
    obtain ⟨b, hb, hrun⟩ := run_pulse h hs h0 hl
    obtain ⟨y, hy, hys, hy0⟩ := takeBit_next_pulse hb (by omega)
    obtain ⟨hrun, hnext⟩ := hrun y hy
    rw [href] at hnext
    obtain ⟨k, z, hk, hz, hrec⟩ := ih hys hy0 (by omega) (by rw [hd]; exact hnext)
      (slotLevel_alternates _).symm (slotToken_received h B (j + 1)).1
    refine ⟨_, z, ?_, (run_add hrun).trans hz, hrec⟩
    rw [restWave_succ, List.length_append, List.length_replicate]
    omega

theorem fits_rxSofMax {P : Params} (h : P.WF1) : P.fits P.rxSofMax := by
  obtain ⟨-, hfits, -⟩ := h
  exact hfits

theorem later_nbytes_nbits {m : Nat} {s u : State} (h : Later m s u) :
    u.nbytes = s.nbytes ∧ u.nbits = s.nbits := by
  obtain ⟨_, _, _, _, rfl⟩ := h; exact ⟨rfl, rfl⟩

/-- R97: the first active sample ends the wait and starts the measurement of the SOF. -/
theorem run_to_sof {P : Params} {p : Nat} {s : State} {ls : List Level} (h1 : P.WF1) (hi : s.Inv)
    (hw : s.params = P) (hp : s.phase = .rxWait) (h0 : s.tcnt = 0) (hwait : p < P.tNoData)
    (hl : Samples s (List.replicate p .passive ++ .active :: ls)) :
    ∃ y, Host.Core.run core (p + 1) s = .next y ∧ Samples y ls ∧ y.phase = .rxSof ∧ y.tcnt = 0 ∧
      y.params = P ∧ y.nbytes = 0 ∧ y.nbits = 0 := by
  subst hw
  obtain ⟨hbytes, hbits, -⟩ := hi.rx_start (.inl hp)
  obtain ⟨u, hrun, hu, hnext⟩ := run_waiting h1 hp h0 hwait hl
  obtain ⟨hbytes', hbits'⟩ := later_nbytes_nbits hu
  obtain ⟨hr, hlv, hrest⟩ := samples_cons hnext
  have hstep := (waitPhaseStep u hr ((later_phase hu).trans hp)).1 hlv
  exact ⟨_, (run_add hrun).trans (run_succ hstep), hrest _ (busyTick_inputs u), rfl, rfl,
    (busyTick_params u).trans (later_params hu), (busyTick_nbytes u).trans (hbytes'.trans hbytes),
    (busyTick_nbits u).trans (hbits'.trans hbits)⟩

/-- R98: a SOF of the length that is sent is accepted, with the first sample of the first slot. -/
theorem run_sof {P : Params} {B : Nat → Byte} {k : Nat} {y : State} {ls : List Level}
    (h : Compatible P) (hk : P.txSof = k + 1) (hw : y.params = P) (hp : y.phase = .rxSof)
    (h0 : y.tcnt = 0) (hbytes : y.nbytes = 0) (hbits : y.nbits = 0)
    (hl : Samples y (List.replicate k .active ++ .passive :: ls)) :
    ∃ z, Host.Core.run core (k + 1) y = .next z ∧ Samples z ls ∧ InPulse P B 0 z ∧ z.tcnt = 0 := by
  have h6 := h.wf6
  have hfits : y.params.fits P.rxSofMax := hw.symm ▸ fits_rxSofMax h.wf1
  obtain ⟨v, hrun, hv, hnext⟩ := run_counting hfits (by omega)
    (fun k u hk hu ht hr hlv => by
      obtain ⟨-, hon, -⟩ := sofPhaseStep u hr ((later_phase hu).trans hp)
      exact hon hlv (by rw [ht, later_params hu, hw]; omega)) hl
  obtain ⟨hr, hlv, hrest⟩ := samples_cons hnext
  obtain ⟨-, -, -, hok⟩ := sofPhaseStep v hr ((later_phase hv).trans hp)
  have hstep := hok hlv (by rw [later_nextTicks hv hfits (by omega), later_params hv, hw]; omega)
  obtain ⟨hbytes', hbits'⟩ := later_nbytes_nbits hv
  have hbytes0 : v.busyTick.nbytes = 0 := (busyTick_nbytes v).trans (hbytes'.trans hbytes)
  have hbits0 : v.busyTick.nbits = 0 := (busyTick_nbits v).trans (hbits'.trans hbits)
  refine ⟨_, (run_add hrun).trans (run_succ hstep), hrest _ (busyTick_inputs v),
    ⟨(busyTick_params v).trans ((later_params hv).trans hw), rfl, rfl, ?_, fun i hi => ?_,
      fun i hi => ?_⟩, rfl⟩
  · simp only [State.slotsStarted, hbytes0, hbits0]; rfl
  · simp only [hbits0] at hi; exact absurd hi (Nat.not_lt_zero i)
  · simp only [hbytes0] at hi; exact absurd hi (Nat.not_lt_zero i)

/-- R136: a block in `RX_WAIT` that samples a frame of 1 to 12 bytes, SOF and end of frame included, has
received it no later than its last tick. -/
theorem run_frame {P : Params} {B : Nat → Byte} {L p : Nat} {s : State} (h : Compatible P)
    (hL1 : 1 ≤ L) (hL : L ≤ 12) (hi : s.Inv) (hw : s.params = P) (hp : s.phase = .rxWait)
    (h0 : s.tcnt = 0) (hwait : p < P.tNoData) {ls : List Level}
    (hls : ls = List.replicate p .passive ++
      (List.replicate P.txSof .active ++ (restWave P B 0 (8 * L)).samples))
    (hl : Samples s ls) :
    ∃ k z, k ≤ ls.length ∧ Host.Core.run core k s = .next z ∧ Received B L z := by
  obtain ⟨k, hk⟩ : ∃ k, P.txSof = k + 1 := ⟨_, (Nat.sub_add_cancel (fits_txSof h.wf1).1).symm⟩
  obtain ⟨m, hm⟩ : ∃ m, 8 * L = m + 1 := ⟨8 * L - 1, by omega⟩
  obtain ⟨d, hd⟩ : ∃ d, (slotToken P B 0).2 = d + 1 :=
    ⟨_, (Nat.sub_add_cancel (slotToken_received h B 0).1).symm⟩
  have hlv : (slotToken P B 0).1 = .passive := rfl
  rw [hk, hm, restWave_succ, hd, hlv, List.replicate_succ, List.replicate_succ] at hls
  subst hls
  obtain ⟨y, hrun, hnext, hpy, h0y, hwy, hbytes, hbits⟩ := run_to_sof h.wf1 hi hw hp h0 hwait hl
  obtain ⟨z, hsof, hnext, hz, hz0⟩ := run_sof (B := B) h hk hwy hpy h0y hbytes hbits hnext
  obtain ⟨n, t, hn, hslots, hrec⟩ := run_slots (m := m) h hL hz hz0 (by omega) (by rw [hd]; exact hnext)
  refine ⟨_, t, ?_, (run_add hrun).trans ((run_add hsof).trans hslots), hrec⟩
  rw [hd] at hn
  simp only [List.length_append, List.length_cons, List.length_replicate]
  omega

/-- The passive levels before an active one. -/
theorem takeWhile_passive {p k : Nat} {ls : List Level} (hk : 1 ≤ k) :
    ((List.replicate p Level.passive ++ (List.replicate k Level.active ++ ls)).takeWhile
      (· == Level.passive)).length = p := by
  obtain ⟨k, rfl⟩ : ∃ m, k = m + 1 := ⟨_, (Nat.sub_add_cancel hk).symm⟩
  rw [List.takeWhile_append_of_pos (by simp), List.replicate_succ]
  simp

theorem length_drvTrace_le (n : Nat) (s : State) : (drvTrace n s).length ≤ n := by
  induction n generalizing s with
  | zero => exact le_rfl
  | succ n ih =>
    unfold drvTrace
    split
    next t _ => exact Nat.succ_le_succ (ih t)
    next => exact Nat.succ_pos n
    next => exact Nat.succ_pos n

/-- Settles O60: the levels of the transmit are those of a frame, and the receiver follows them. -/
theorem loopbackReproducesFrame : Obligations.LoopbackReproducesFrame := by
  intro x y n ts hw h1 h2 h3 h4 h5 h6 h7 hix hpx hL1 hsends hiy hpy h0 hwait hc hts
  obtain ⟨p, htrace⟩ := drvTrace_of_sendsUntil h1 hix hpx hsends
  have hcompat : Compatible x.params := ⟨h1, h2, h3, h4, h5, h6, h7⟩
  have hL : x.len.toNat ≤ 12 := hix.tx_len (by rcases hpx with hp | ⟨hp, -⟩ <;> rw [hp] <;> rfl)
  rw [htrace, takeWhile_passive (fits_txSof h1).1, ← hw] at hwait
  obtain ⟨k, t, hk, hrun, hidle, htag, hres, hfb⟩ :=
    run_frame hcompat hL1 hL hiy hw.symm hpy h0 hwait htrace ⟨ts, hc, hts⟩
  exact ⟨k, t, hk.trans (length_drvTrace_le n x), hrun, hidle, htag,
    hres.trans (BitVec.eq_of_toNat_eq (enc_bytes_toNat (by omega))), hfb⟩

end Sys2Proof.Proofs
end
